-- ==== Sys2Proof/Word.lean ====
section
/-! DEFINITION. The widths of the bank's values, and a triple with one entry per channel. -/

namespace Sys2Proof

/-- A 32-bit word: a packet's header or operand, a response, a shift register, an external address, a byte count
(R8, R10, R82, R83). -/
abbrev Word := BitVec 32

/-- One byte of external memory or of the chunk buffer (R36, R60). -/
abbrev Byte := BitVec 8

/-- The three channels, numbered 0, 1, 2 (R7). -/
abbrev Channel := Fin 3

/-- One value per channel: the three shift registers, the three DOUT or EN_N lines, the three DIN samples (R7, R21, R46). -/
structure Lanes (α : Type) where
  ch0 : α
  ch1 : α
  ch2 : α
deriving DecidableEq, Repr

end Sys2Proof
end

