-- ==== Sys2Proof/Config.lean ====
section
/-! DEFINITION. What an implementation of the bank fixes, and the one value the spec leaves free at power-on. -/

namespace Sys2Proof

/-- The model parameters of R53 that are fixed for a machine (log 3). No step changes them. -/
structure Params where
  /-- `C`, the chunk-buffer capacity in bytes; the spec requires `C >= 1` (R9). -/
  capacity : Nat
  /-- `SCAN_COMPLETE_STICKY`: `true` if a rising tick leaves `scanComplete` alone (R11, R142). -/
  sticky : Bool
deriving DecidableEq, Repr

/-- The defaults the spec names: `C = 1024` (R9) and `SCAN_COMPLETE_STICKY = false` (R11). -/
def Params.default : Params := { capacity := 1024, sticky := false }

/-- The largest chain length, and the width of each shift register (R8). -/
def Config.maxChain : Nat := 32

/-- One past the highest external address (R10, R63). -/
def Config.addressTop : Nat := 2 ^ 32

/-- FREE VALUE: the byte that chunk-buffer position `k` holds at power-on until a fill writes it (R36, R220; log 4).
It has no body: nothing can be proved of any of its values. -/
opaque Config.bufPowerOn : Nat → Byte

end Sys2Proof
end

