-- ==== Sys2Proof/Syntax.lean ====
section
/-! DEFINITION. The eleven commands of spec/opcode_table.json, each with its operand words (R84, R85). -/

namespace Sys2Proof

/-- A command with its operands. TICK is no command and has no encoding (R92); it is in Machine/Tick.lean. -/
inductive Instr where
  /-- CONFIGURE `LEN`: the requested chain length (R100). -/
  | configure (len : Word)
  /-- BEGIN `PERIOD`: the opaque clock period (R102). -/
  | beginScan (period : Word)
  /-- RUN (R105). -/
  | run
  /-- STOP (R107). -/
  | stop
  /-- CLEAR (R109). -/
  | clear
  /-- LOAD_WORDS `W0, W1, W2`: one scan word per channel (R120). -/
  | loadWords (w0 w1 w2 : Word)
  /-- LOAD_DATA `SRC, LEN`: the source's byte address and its length in bytes (R122). -/
  | loadData (src len : Word)
  /-- IS_COMPLETE (R180). -/
  | isComplete
  /-- GET_OUTPUT (R181). -/
  | getOutput
  /-- VERIFY `REF, LEN`: the reference's byte address and its length in bytes (R182). -/
  | verify (ref len : Word)
  /-- SET_OBSERVER `OBS`: bit 0 registers or unregisters, bits [31:1] are reserved (R167). -/
  | setObserver (obs : Word)
deriving DecidableEq, Repr

end Sys2Proof
end

