-- ==== Sys2Proof/WellFormed.lean ====
section
/-! DEFINITION. Which commands have operands the spec gives a meaning to (R86, R87, R100). -/

namespace Sys2Proof

/-- The external range `[a, a + n)` lies below the top of the address space (R63). -/
def rangeFits (a n : Nat) : Bool := decide (a + n ≤ Config.addressTop)

/-- No operand is reserved or without a meaning: CONFIGURE's `LEN` is not 0 (R100), SET_OBSERVER's bits [31:1] are 0 (R87).
A command that fails this check still decodes; its own rule refuses it. -/
def Instr.wf : Instr → Bool
  | .configure len => decide (len ≠ 0)
  | .setObserver obs => decide (obs.extractLsb' 1 31 = 0)
  | .beginScan _ => true
  | .run => true
  | .stop => true
  | .clear => true
  | .loadWords _ _ _ => true
  | .loadData _ _ => true
  | .isComplete => true
  | .getOutput => true
  | .verify _ _ => true

/-- Every operand lies in the legal range of R86: CONFIGURE's `LEN` in 1..32 (above, it is clamped), SET_OBSERVER's `OBS` 0 or 1,
and the ranges of LOAD_DATA and VERIFY below `2^32`. -/
def Instr.inRange : Instr → Bool
  | .configure len => decide (1 ≤ len.toNat ∧ len.toNat ≤ Config.maxChain)
  | .setObserver obs => decide (obs.toNat ≤ 1)
  | .loadData src len => rangeFits src.toNat len.toNat
  | .verify ref len => rangeFits ref.toNat len.toNat
  | .beginScan _ => true
  | .run => true
  | .stop => true
  | .clear => true
  | .loadWords _ _ _ => true
  | .isComplete => true
  | .getOutput => true

end Sys2Proof
end

