-- ==== Sys2Proof/Decode.lean ====
section
/-! DEFINITION. From the words the host presents to a command and the words left over (R80 to R91), and back. Words are 32-bit
values, never byte sequences (R64). -/

namespace Sys2Proof

/-- Why the decoder takes no command from the words presented: rows 1 to 3 of R201. -/
inductive DecodeError where
  /-- `OP` in {0x0, 0xC..0xF} (R88). -/
  | reservedOp
  /-- Header bits [31:4] not 0 (R89). -/
  | reservedBits
  /-- Fewer operand words than `nops(OP)` (R91). -/
  | badPacket
deriving DecidableEq, Repr

/-- The eleven opcodes, without operands (R84). -/
inductive Opcode where
  | configure | beginScan | run | stop | clear | loadWords | loadData | isComplete | getOutput | verify | setObserver
deriving DecidableEq, Repr

/-- Header bits [3:0], `OP` (R81). -/
def opField (header : Word) : BitVec 4 := header.extractLsb' 0 4

/-- Header bits [31:4], `RSV` (R81). -/
def rsvField (header : Word) : BitVec 28 := header.extractLsb' 4 28

/-- The opcode map (R84); `none` for the reserved values (R88). -/
def opcodeOf (op : BitVec 4) : Option Opcode :=
  match op.toNat with
  | 0x1 => some .configure
  | 0x2 => some .beginScan
  | 0x3 => some .run
  | 0x4 => some .stop
  | 0x5 => some .clear
  | 0x6 => some .loadWords
  | 0x7 => some .loadData
  | 0x8 => some .isComplete
  | 0x9 => some .getOutput
  | 0xA => some .verify
  | 0xB => some .setObserver
  | _ => none

/-- The number of operand words (R84). -/
def Opcode.nops : Opcode → Nat
  | .configure => 1
  | .beginScan => 1
  | .run => 0
  | .stop => 0
  | .clear => 0
  | .loadWords => 3
  | .loadData => 2
  | .isComplete => 0
  | .getOutput => 0
  | .verify => 2
  | .setObserver => 1

/-- The number of response words (R84, R95). -/
def Opcode.nresp : Opcode → Nat
  | .configure => 0
  | .beginScan => 0
  | .run => 0
  | .stop => 0
  | .clear => 0
  | .loadWords => 0
  | .loadData => 0
  | .isComplete => 1
  | .getOutput => 3
  | .verify => 1
  | .setObserver => 0

/-- The operand words of each opcode, read in order (R82, R85); what follows them is left over. -/
def takeOperands (op : Opcode) (words : List Word) : Option (Instr × List Word) :=
  match op with
  | .configure =>
    match words with
    | len :: rest => some (.configure len, rest)
    | [] => none
  | .beginScan =>
    match words with
    | period :: rest => some (.beginScan period, rest)
    | [] => none
  | .run => some (.run, words)
  | .stop => some (.stop, words)
  | .clear => some (.clear, words)
  | .loadWords =>
    match words with
    | w0 :: w1 :: w2 :: rest => some (.loadWords w0 w1 w2, rest)
    | _ => none
  | .loadData =>
    match words with
    | src :: len :: rest => some (.loadData src len, rest)
    | _ => none
  | .isComplete => some (.isComplete, words)
  | .getOutput => some (.getOutput, words)
  | .verify =>
    match words with
    | ref :: len :: rest => some (.verify ref len, rest)
    | _ => none
  | .setObserver =>
    match words with
    | obs :: rest => some (.setObserver obs, rest)
    | [] => none

/-- The decoder, total on any words. Its checks come in the order of R201 and R206: reserved opcode, reserved header bits,
packet length. No words at all are no packet (log 7). -/
def decode : List Word → Except DecodeError (Instr × List Word)
  | [] => .error .badPacket
  | header :: words =>
    match opcodeOf (opField header) with
    | none => .error .reservedOp
    | some op =>
      if rsvField header ≠ 0 then .error .reservedBits
      else
        match takeOperands op words with
        | none => .error .badPacket
        | some found => .ok found

/-- The value of `OP` for an opcode (R84). -/
def Opcode.code : Opcode → BitVec 4
  | .configure => 0x1
  | .beginScan => 0x2
  | .run => 0x3
  | .stop => 0x4
  | .clear => 0x5
  | .loadWords => 0x6
  | .loadData => 0x7
  | .isComplete => 0x8
  | .getOutput => 0x9
  | .verify => 0xA
  | .setObserver => 0xB

/-- A command's opcode. -/
def Instr.opcode : Instr → Opcode
  | .configure _ => .configure
  | .beginScan _ => .beginScan
  | .run => .run
  | .stop => .stop
  | .clear => .clear
  | .loadWords _ _ _ => .loadWords
  | .loadData _ _ => .loadData
  | .isComplete => .isComplete
  | .getOutput => .getOutput
  | .verify _ _ => .verify
  | .setObserver _ => .setObserver

/-- A command's operand words, in packet order (R85). -/
def Instr.operands : Instr → List Word
  | .configure len => [len]
  | .beginScan period => [period]
  | .run => []
  | .stop => []
  | .clear => []
  | .loadWords w0 w1 w2 => [w0, w1, w2]
  | .loadData src len => [src, len]
  | .isComplete => []
  | .getOutput => []
  | .verify ref len => [ref, len]
  | .setObserver obs => [obs]

/-- The header word: `OP` in bits [3:0], `RSV = 0` above it (R81). -/
def Instr.header (i : Instr) : Word := (0 : BitVec 28) ++ i.opcode.code

/-- The packet of a command: its header, then its operand words (R80). -/
def encode (i : Instr) : List Word := i.header :: i.operands

/-- The length in words of a packet with this header, `1 + nops(OP)` (R91); 1 for a reserved opcode. -/
def packetLength (header : Word) : Nat :=
  match opcodeOf (opField header) with
  | some op => 1 + op.nops
  | none => 1

/-- The packet whose words are the bits of `w` below `nbits`, the first word in bits 31..0, the next in bits 63..32 and so on, with
every bit from `nbits` up 0 and cut to the length its header gives (log 18). -/
def tableWords (nbits w : Nat) : List Word :=
  let kept := w % 2 ^ nbits
  let words := (List.range 4).map fun k => BitVec.ofNat 32 (kept >>> (32 * k))
  words.take (packetLength (BitVec.ofNat 32 kept))

/-- The command the decoder reads from a packet numbered as spec/opcode_table.json numbers its bits. -/
def decodeTableWord (nbits w : Nat) : Option Instr :=
  match decode (tableWords nbits w) with
  | .ok (i, _) => some i
  | .error _ => none

end Sys2Proof
end

