-- ==== Sys2Proof/Machine/State.lean ====
section
/-! DEFINITION. The state of the bank (10_state.md), what stands around it (parameters, external memory, inputs still to come), the
reasons a step can stop, and power-on reset (R220). Plain data throughout. -/

namespace Sys2Proof.Machine

/-- External byte memory: the addresses that are admitted, each with its byte, in rising order (R60, R61; log 5). An address that is not
listed is not admitted. -/
abbrev Memory := List Host.Cell

/-- The value of `cfgState` alone (R27). -/
inductive CfgState where
  | unconfigured
  | configured
  | begun
deriving DecidableEq, Repr

/-- `cfgState` together with `L` and `period`, which have a value in exactly the states that carry one here (R27, R28, R29; log 14). -/
inductive Lifecycle where
  /-- No chain length and no period yet. -/
  | unconfigured
  /-- CONFIGURE has stored `L`. -/
  | configured (L : BitVec 6)
  /-- BEGIN has stored `period` and registered the tick (R104). -/
  | begun (L : BitVec 6) (period : Word)
deriving DecidableEq, Repr

/-- `run` (R30). -/
inductive RunState where
  | idle
  | running
deriving DecidableEq, Repr

/-- `phase` (R31). -/
inductive Phase where
  | rising
  | falling
deriving DecidableEq, Repr

/-- The level of an output port: `U`, 0 or 1 (R45). `U` is a value of its own, and no rule reads it as 0 or as 1. -/
inductive Level where
  | undriven
  | low
  | high
deriving DecidableEq, Repr

/-- The seven refusal reasons of R201. -/
inductive RefuseReason where
  /-- Code 1, any packet: reserved opcode (R88). -/
  | reservedOp
  /-- Code 2, any packet and SET_OBSERVER: reserved header or operand bits (R87, R89). -/
  | reservedBits
  /-- Code 3, any packet: fewer operand words than `nops(OP)` (R91). -/
  | badPacket
  /-- Code 4, every command but CONFIGURE: no configuration yet (R112). -/
  | notConfigured
  /-- Code 5, CONFIGURE: a configuration exists (R101). -/
  | reconfigure
  /-- Code 6, CONFIGURE: `LEN = 0` (R100). -/
  | zeroChain
  /-- Code 7, BEGIN: the tick is registered already (R102). -/
  | rebegin
deriving DecidableEq, Repr

/-- One refusal, with the word R201's column 'info recorded' names for it (log 13). -/
structure RefusalRecord where
  reason : RefuseReason
  info : Word
deriving DecidableEq, Repr

/-- One entry of the output history (R54). -/
inductive Event where
  /-- The response words of one command (R95). -/
  | response (words : List Word)
  /-- `CHUNK_BOUNDARY` (R165). -/
  | chunkBoundary
  /-- The port values after a step (R54; log 12). -/
  | ports (clk : Level) (dout enN : Lanes Level)
deriving DecidableEq, Repr

/-- What the host, the timer or the environment does next (R52; log 2). -/
inductive Input where
  /-- The host presents words, with no tick between them: a header and what follows it (R80; log 7). -/
  | packet (header : Word) (more : List Word)
  /-- The timer fires, with the three DIN samples of this moment (R50, R140). -/
  | tick (din : Lanes Bool)
  /-- While no transfer is under way, the host changes a byte of its own memory, or (`none`) stops admitting it (R73, R239; log 9). -/
  | hostStore (addr : Word) (value : Option Byte)
deriving DecidableEq, Repr

/-- Why the bank stops: the one stuck cause of R201. -/
inductive Fault where
  /-- `STUCK_MEM`, raised by LOAD_DATA, VERIFY and a TICK with a refill: the byte at `addr` is not admitted, or a range passes `2^32`
  and `addr` is `2^32` (R63, R127, R182; log 6). Safe: no step follows it (R17). -/
  | stuckMem (addr : Nat)
deriving DecidableEq, Repr

/-- Why a step has no meaning. The seven refusals of R201 are not here: the spec says what state they leave (R17, R42; log 1). -/
inductive Refusal where
  /-- Raised by no instruction of this model: an arm of `exec` without a meaning would answer it. Safe. -/
  | notModelled (mnemonic : String)
  /-- Raised by `step` for a tick scripted before BEGIN, when no TICK step exists (R104; log 8). Safe. -/
  | tickNotEnabled
  /-- Raised by `step` for a host store while a transfer is under way, when external memory is constant and the host has no such
  move (R73, R235, R239; log 9). Safe. -/
  | storeDuringTransfer (addr : Word)
deriving DecidableEq, Repr

/-- The whole state (R16, R20; INVENTORY.md lists each element with its rule). -/
structure State where
  /-- `C` and `SCAN_COMPLETE_STICKY` (R53; log 3). -/
  params : Params
  /-- `cfgState`, `L` and `period` (R27 to R29). -/
  lifecycle : Lifecycle
  /-- `run` (R30). -/
  run : RunState
  /-- `phase` (R31). -/
  phase : Phase
  /-- `bitCount` (R32). -/
  bitCount : BitVec 6
  /-- `scanComplete` (R33). -/
  scanComplete : Bool
  /-- `srcPtr` (R34). -/
  srcPtr : Word
  /-- `remaining` (R35). -/
  remaining : Word
  /-- `Buf[0..C-1]`, position 0 first (R36). -/
  buf : List Byte
  /-- `index` (R37). -/
  index : Nat
  /-- `empty` (R38). -/
  empty : Bool
  /-- `obsEn` (R41). -/
  obsEn : Bool
  /-- `SR[0..2]` (R21). -/
  sr : Lanes Word
  /-- `CLK` (R48). -/
  clk : Level
  /-- `DOUT[0..2]` (R49). -/
  dout : Lanes Level
  /-- `EN_N[0..2]` (R47). -/
  enN : Lanes Level
  /-- The model-only mark `refused` (R42). -/
  refused : Bool
  /-- The refusals so far with their recorded information, oldest first (R201; log 13). -/
  refusalLog : List RefusalRecord
  /-- The output history, oldest first (R54). -/
  history : List Event
  /-- External memory (R61). -/
  mem : Memory
  /-- The inputs still to come, the next one first (log 2). -/
  inputs : List Input
deriving DecidableEq, Repr

/-- The power-on state (R220) of a bank with parameters `params`, power-on buffer bytes `draws`, launch memory `mem` and environment
`inputs` (R53). -/
def State.powerOn (params : Params) (draws : List Byte) (mem : Memory) (inputs : List Input) : State where
  params := params
  lifecycle := .unconfigured
  run := .idle
  phase := .rising
  bitCount := 0
  scanComplete := false
  srcPtr := 0
  remaining := 0
  buf := draws
  index := 0
  empty := true
  obsEn := false
  sr := { ch0 := 0, ch1 := 0, ch2 := 0 }
  clk := .undriven
  dout := { ch0 := .undriven, ch1 := .undriven, ch2 := .undriven }
  enN := { ch0 := .undriven, ch1 := .undriven, ch2 := .undriven }
  refused := false
  refusalLog := []
  history := []
  mem := mem
  inputs := inputs

/-- The machine right after power-on: default parameters, free buffer bytes, no external byte admitted, no input pending. -/
def State.reset : State :=
  State.powerOn Params.default ((List.range Params.default.capacity).map Config.bufPowerOn) [] []

/-- `cfgState` (R27). -/
def State.cfgState (s : State) : CfgState :=
  match s.lifecycle with
  | .unconfigured => .unconfigured
  | .configured _ => .configured
  | .begun _ _ => .begun

/-- `L`, none while Unconfigured (R28). -/
def State.chainLength (s : State) : Option (BitVec 6) :=
  match s.lifecycle with
  | .unconfigured => none
  | .configured L => some L
  | .begun L _ => some L

/-- `period`, none until BEGIN (R29). -/
def State.period (s : State) : Option Word :=
  match s.lifecycle with
  | .unconfigured => none
  | .configured _ => none
  | .begun _ period => some period

end Sys2Proof.Machine
end

