-- ==== Sys2Proof/Machine/Flags.lean ====
section
/-! DEFINITION. The flags of R43: how each is computed or tested. The bank has no condition codes, and no arithmetic sets a flag. -/

namespace Sys2Proof.Machine

/-- The transfer is logically finished: `scanComplete`, no byte left in the source, chunk buffer empty (R40, R180). -/
def finished (s : State) : Bool := s.scanComplete && decide (s.remaining = 0) && s.empty

/-- A transfer is under way: from a LOAD_DATA that starts one until IS_COMPLETE would report `true` (R73), or until CLEAR takes the
transfer state back to its initial values (R109; log 9). -/
def transferUnderWay (s : State) : Bool := !(decide (s.remaining = 0) && s.empty)

/-- `scanComplete` after a rising tick: kept if sticky, else false (R142). -/
def scanAfterRising (params : Params) (scanComplete : Bool) : Bool := params.sticky && scanComplete

/-- A tick has an effect: `run = Running` (R140). -/
def running (s : State) : Bool := decide (s.run = .running)

/-- The bits of `run`, `phase` as R43 and R44 number them. -/
def runBit (r : RunState) : Bool := decide (r = .running)

/-- See `runBit`. -/
def phaseBit (p : Phase) : Bool := decide (p = .falling)

/-- A word is complete at a falling tick: `bitCount = L` (R143, R144). -/
def wordDone (L : BitVec 6) (s : State) : Bool := decide (s.bitCount = L)

/-- A channel can still take a byte: `index < C` (R161). -/
def hasUnread (s : State) : Bool := decide (s.index < s.params.capacity)

/-- The drain condition: `index = C` (R163). -/
def drained (s : State) : Bool := decide (s.index = s.params.capacity)

end Sys2Proof.Machine
end

