-- ==== Sys2Proof/Machine/Operands.lean ====
section
/-! DEFINITION. Values before they are stored: per-channel selection, the chain mask, the three ways a register gets a new value, and
the operand readings of CONFIGURE and SET_OBSERVER (R13, R85, R100, R121, R141, R162, R167). -/

namespace Sys2Proof.Machine

/-- The entry of one channel. -/
def laneGet {α : Type} (v : Lanes α) (i : Channel) : α :=
  match i with
  | 0 => v.ch0
  | 1 => v.ch1
  | 2 => v.ch2

/-- One channel's entry replaced. -/
def laneSet {α : Type} (v : Lanes α) (i : Channel) (x : α) : Lanes α :=
  match i with
  | 0 => { v with ch0 := x }
  | 1 => { v with ch1 := x }
  | 2 => { v with ch2 := x }

/-- The same value on every channel. -/
def laneAll {α : Type} (x : α) : Lanes α := { ch0 := x, ch1 := x, ch2 := x }

/-- One function on every channel, in lock-step (R146). -/
def laneMap {α β : Type} (f : α → β) (v : Lanes α) : Lanes β :=
  { ch0 := f v.ch0, ch1 := f v.ch1, ch2 := f v.ch2 }

/-- One function on every channel of two triples, in lock-step (R146). -/
def laneZip {α β γ : Type} (f : α → β → γ) (v : Lanes α) (w : Lanes β) : Lanes γ :=
  { ch0 := f v.ch0 w.ch0, ch1 := f v.ch1 w.ch1, ch2 := f v.ch2 w.ch2 }

/-- `mask(L) = 2^L - 1` (R13), in the physical width of a register. -/
def mask (L : BitVec 6) : Word := BitVec.ofNat 32 (2 ^ L.toNat - 1)

/-- A word cut to its low `L` bits, as every register write does (R22, R121). -/
def maskTo (L : BitVec 6) (w : Word) : Word := w &&& mask L

/-- One rising shift of a register: `((SR << 1) | d) & mask(L)` (R14, R141). -/
def shiftIn (L : BitVec 6) (w : Word) (d : Bool) : Word :=
  maskTo L ((w <<< 1) ||| (BitVec.ofBool d).setWidth 32)

/-- The level a bit drives. -/
def levelOf (b : Bool) : Level := if b then .high else .low

/-- The level a falling tick drives: bit `L - 1` of the register (R14, R143). -/
def topLevel (L : BitVec 6) (w : Word) : Level := levelOf (w.getLsbD (L.toNat - 1))

/-- A chunk byte as a register holds it: zero-extended, then masked (R162). -/
def byteWord (L : BitVec 6) (b : Byte) : Word := maskTo L (b.setWidth 32)

/-- `min(LEN, 32)`, the chain length CONFIGURE stores (R100). -/
def clampLength (len : Word) : BitVec 6 := BitVec.ofNat 6 (min len.toNat Config.maxChain)

/-- `OBS[31:1] = 0` (R87). -/
def obsReservedClear (obs : Word) : Bool := decide (obs.extractLsb' 1 31 = 0)

/-- `OBS[0]` (R167). -/
def obsBit (obs : Word) : Bool := obs.getLsbD 0

/-- A Boolean result as a response word: bit 0, every other bit 0 (R83, R95). -/
def boolWord (b : Bool) : Word := (BitVec.ofBool b).setWidth 32

/-- Every bit of `w` from bit `L` up is 0 (R22). -/
def confined (L : BitVec 6) (w : Word) : Bool := decide (w &&& ~~~(mask L) = 0)

/-- `IDX_W = ceil(log2(C + 1))`, the width of `index` (R37). -/
def indexWidth (capacity : Nat) : Nat := Nat.clog 2 (capacity + 1)

end Sys2Proof.Machine
end

