-- ==== Sys2Proof/Machine/Ops.lean ====
section
/-! DEFINITION. The named operations over memory, registers, history and inputs that the commands and the tick share. The bank raises
no exception (R200), so there is no exception entry here; `refuse` is the one shared operation for the refusals of R201. -/

namespace Sys2Proof.Machine

/-- The answer of a command or a tick. -/
abbrev Answer := Host.Outcome State Fault Refusal

/-! ### External memory -/

/-- The byte listed at `a`, if any. -/
def Memory.lookup : Memory → Nat → Option Byte
  | [], _ => none
  | (x, b) :: m, a => if x = a then some b else Memory.lookup m a

/-- The cell for `a` put in front of a memory that lists only higher addresses; a byte not admitted is not listed. -/
def Memory.consCell (a : Nat) (v : Option Byte) (m : Memory) : Memory :=
  match v with
  | some b => (a, b) :: m
  | none => m

/-- Address `a` now holds `v`, or is no longer admitted; the list stays in rising order. -/
def Memory.update : Memory → Nat → Option Byte → Memory
  | [], a, v => Memory.consCell a v []
  | (x, b) :: m, a, v =>
    if a < x then Memory.consCell a v ((x, b) :: m)
    else if a = x then Memory.consCell a v m
    else (x, b) :: Memory.update m a v

/-- The addresses rise strictly from `lo` on and stay below `2^32`. -/
def Memory.risesFrom : Nat → Memory → Bool
  | _, [] => true
  | lo, (x, _) :: m => decide (lo ≤ x) && decide (x < Config.addressTop) && Memory.risesFrom (x + 1) m

/-- The canonical form: addresses strictly rising, each below `2^32`. An unlisted address has no value, so no entry equals one. -/
def Memory.wf (m : Memory) : Bool := Memory.risesFrom 0 m

/-- `MemRead(a, 1)`: the byte at `a`, or none where the memory does not admit it (R61). No address from `2^32` up exists (R63). -/
def memRead (s : State) (a : Nat) : Option Byte :=
  if a < Config.addressTop then s.mem.lookup a else none

/-- The bytes at `[a, a + n)`, or stuck at the first address that is not admitted (R61, R127). -/
def readRange (s : State) (a : Nat) : Nat → Except Fault (List Byte)
  | 0 => .ok []
  | n + 1 =>
    match memRead s a with
    | none => .error (.stuckMem a)
    | some b =>
      match readRange s (a + 1) n with
      | .error f => .error f
      | .ok bs => .ok (b :: bs)

/-! ### Refusal, response, observer event, port history -/

/-- A refusal: the mark is set and the reason recorded, and nothing else is written (R17, R42, R201; log 1). -/
def refuse (reason : RefuseReason) (info : Word) (s : State) : State :=
  { s with refused := true, refusalLog := s.refusalLog ++ [{ reason := reason, info := info }] }

/-- The reason of a decoder refusal (R201, rows 1 to 3). -/
def decodeReason : DecodeError → RefuseReason
  | .reservedOp => .reservedOp
  | .reservedBits => .reservedBits
  | .badPacket => .badPacket

/-- `respond(w0, ...)` (R13, R54). -/
def respond (words : List Word) (s : State) : State :=
  { s with history := s.history ++ [.response words] }

/-- One `CHUNK_BOUNDARY` if an observer is registered (R165). -/
def notifyObserver (s : State) : State :=
  if s.obsEn then { s with history := s.history ++ [.chunkBoundary] } else s

/-- The port values after a step go into the history (R54; log 12). -/
def recordPorts (s : State) : State :=
  { s with history := s.history ++ [.ports s.clk s.dout s.enN] }

/-- A state or a stuck cause as the answer of a step. -/
def answerOf : Except Fault State → Answer
  | .ok s => .next s
  | .error f => .fault f

/-- The gate of every command but CONFIGURE and BEGIN: refused while Unconfigured (R112), else run with the chain length. -/
def whenConfigured (i : Instr) (s : State) (body : BitVec 6 → Answer) : Answer :=
  match s.chainLength with
  | none => .next (refuse .notConfigured i.header s)
  | some L => body L

/-! ### The chunk buffer -/

/-- `Buf[k]`. A position the list does not hold, which no reachable state reads (R76), reads as its free power-on byte (log 15). -/
def bufAt (s : State) (k : Nat) : Byte := s.buf.getD k (Config.bufPowerOn k)

/-- The copy length of a fill: `min(remaining, C)` (R124). -/
def fillLength (s : State) : Nat := min s.remaining.toNat s.params.capacity

/-- `Fill()` (R124, R125): copies the next `min(remaining, C)` source bytes into the first positions of the buffer, and leaves the later
positions as they are. Stuck, with nothing written, where a byte is not admitted. -/
def fill (s : State) : Except Fault State :=
  match readRange s s.srcPtr.toNat (fillLength s) with
  | .error f => .error f
  | .ok bytes =>
    .ok { s with
      buf := bytes ++ s.buf.drop (fillLength s)
      srcPtr := s.srcPtr + BitVec.ofNat 32 (fillLength s)
      remaining := s.remaining - BitVec.ofNat 32 (fillLength s)
      index := 0
      empty := false }

/-! ### Inputs and host stores -/

/-- The words a packet leaves over are the start of the next one (R80, R91; log 7). -/
def pushBack (left : List Word) (rest : List Input) : List Input :=
  match left with
  | [] => rest
  | header :: more => .packet header more :: rest

/-- The host changes a byte of its own memory between steps (R239). External memory is constant while a transfer is under way, so there
the host has no such move (R61, R73, R235; log 9). -/
def hostStore (a : Word) (v : Option Byte) (s : State) : Answer :=
  if transferUnderWay s then .refused (.storeDuringTransfer a)
  else .next { s with mem := s.mem.update a.toNat v }

end Sys2Proof.Machine
end

