-- ==== Sys2Proof/Machine/Advance.lean ====
section
/-! DEFINITION. Chunk advancement with its drain, refill and observer event, and SET_OBSERVER (43_chunk_advance.md). -/

namespace Sys2Proof.Machine

/-- One channel's turn in an advancement: while `index < C` it takes the next byte (R161, R162). -/
def loadChannel (L : BitVec 6) (s : State) (i : Channel) : State :=
  if hasUnread s then { s with sr := laneSet s.sr i (byteWord L (bufAt s s.index)), index := s.index + 1 }
  else s

/-- The three channels in ascending order (R161). -/
def loadChannels (L : BitVec 6) (s : State) : State :=
  loadChannel L (loadChannel L (loadChannel L s 0) 1) 2

/-- The drain (R163 to R165): the buffer is empty, is refilled if source bytes are left, and the observer hears of it once. -/
def drain (s : State) : Except Fault State :=
  if s.remaining = 0 then .ok (notifyObserver { s with empty := true })
  else
    match fill { s with empty := true } with
    | .error f => .error f
    | .ok t => .ok (notifyObserver t)

/-- `Advance()` (R160): nothing from an empty buffer; else the channels load, and the drain is checked once, after them. -/
def advance (L : BitVec 6) (s : State) : Except Fault State :=
  if s.empty then .ok s
  else if drained (loadChannels L s) then drain (loadChannels L s)
  else .ok (loadChannels L s)

/-- SET_OBSERVER (R167): the configuration is checked before the reserved bits (C15). -/
def execSetObserver (obs : Word) (s : State) : Answer :=
  whenConfigured (.setObserver obs) s fun _ =>
    if obsReservedClear obs then .next { s with obsEn := obsBit obs }
    else .next (refuse .reservedBits obs s)

end Sys2Proof.Machine
end

