-- ==== Sys2Proof/Machine/Completion.lean ====
section
/-! DEFINITION. The reading commands IS_COMPLETE, GET_OUTPUT and VERIFY (44_completion_verify.md). They write no block state (R186). -/

namespace Sys2Proof.Machine

/-- IS_COMPLETE (R180). -/
def execIsComplete (s : State) : Answer :=
  whenConfigured .isComplete s fun _ => .next (respond [boolWord (finished s)] s)

/-- GET_OUTPUT (R181). -/
def execGetOutput (s : State) : Answer :=
  whenConfigured .getOutput s fun _ => .next (respond [s.sr.ch0, s.sr.ch1, s.sr.ch2] s)

/-- Part 1 of VERIFY: are `Buf[k], ..., Buf[k + n - 1]` the bytes at `ref`, `ref + 1`, ...? Every reference byte is read, whatever the
comparison gives (R182). -/
def verifyBuffer (s : State) (ref k : Nat) : Nat → Except Fault Bool
  | 0 => .ok true
  | n + 1 =>
    match memRead s ref with
    | none => .error (.stuckMem ref)
    | some b =>
      match verifyBuffer s (ref + 1) (k + 1) n with
      | .error f => .error f
      | .ok rest => .ok (decide (bufAt s k = b) && rest)

/-- Part 2 of VERIFY: are the `n` source bytes at `src` those at `ref`? Every byte of both ranges is read, the source byte of a pair
first (R182). -/
def verifySource (s : State) (src ref : Nat) : Nat → Except Fault Bool
  | 0 => .ok true
  | n + 1 =>
    match memRead s src with
    | none => .error (.stuckMem src)
    | some a =>
      match memRead s ref with
      | none => .error (.stuckMem ref)
      | some b =>
        match verifySource s (src + 1) (ref + 1) n with
        | .error f => .error f
        | .ok rest => .ok (decide (a = b) && rest)

/-- The comparison of VERIFY, both parts (R182). -/
def verifyBytes (ref : Nat) (s : State) : Except Fault Bool :=
  match verifyBuffer s ref 0 s.index with
  | .error f => .error f
  | .ok first =>
    match verifySource s s.srcPtr.toNat (ref + s.index) s.remaining.toNat with
    | .error f => .error f
    | .ok second => .ok (first && second)

/-- VERIFY on a configured bank (R182, R183): a wrong length answers 0 and reads nothing; a range past the top is stuck. -/
def compareReference (ref len : Word) (s : State) : Answer :=
  if len.toNat ≠ s.remaining.toNat + s.index then .next (respond [boolWord false] s)
  else if rangeFits ref.toNat len.toNat then
    match verifyBytes ref.toNat s with
    | .error f => .fault f
    | .ok same => .next (respond [boolWord same] s)
  else .fault (.stuckMem Config.addressTop)

/-- VERIFY (R182). -/
def execVerify (ref len : Word) (s : State) : Answer :=
  whenConfigured (.verify ref len) s fun _ => compareReference ref len s

end Sys2Proof.Machine
end

