-- ==== Sys2Proof/Machine/Lifecycle.lean ====
section
/-! DEFINITION. The lifecycle commands CONFIGURE, BEGIN, RUN, STOP and CLEAR (40_lifecycle.md). -/

namespace Sys2Proof.Machine

/-- CONFIGURE (R100, R101): stores `min(LEN, 32)` once. -/
def execConfigure (len : Word) (s : State) : Answer :=
  match s.lifecycle with
  | .unconfigured =>
    if len = 0 then .next (refuse .zeroChain len s)
    else .next { s with lifecycle := .configured (clampLength len) }
  | .configured _ => .next (refuse .reconfigure len s)
  | .begun _ _ => .next (refuse .reconfigure len s)

/-- BEGIN (R102, R103): stores `PERIOD`, drives the enables active (low) and registers the tick. -/
def execBegin (period : Word) (s : State) : Answer :=
  match s.lifecycle with
  | .unconfigured => .next (refuse .notConfigured (Instr.beginScan period).header s)
  | .configured L => .next { s with lifecycle := .begun L period, enN := laneAll .low }
  | .begun _ _ => .next (refuse .rebegin period s)

/-- RUN (R105, R106): legal before BEGIN too; `phase` stays. -/
def execRun (s : State) : Answer :=
  whenConfigured .run s fun _ => .next { s with run := .running, scanComplete := false, bitCount := 0 }

/-- STOP (R107, R108): resets no state. -/
def execStop (s : State) : Answer :=
  whenConfigured .stop s fun _ => .next { s with run := .idle }

/-- CLEAR (R109, R110): zeroes the registers and the transfer; the buffer's bytes stay. -/
def execClear (s : State) : Answer :=
  whenConfigured .clear s fun _ =>
    .next { s with
      sr := laneAll 0
      srcPtr := 0
      remaining := 0
      index := 0
      empty := true
      scanComplete := false }

end Sys2Proof.Machine
end

