-- ==== Sys2Proof/Machine/Loading.lean ====
section
/-! DEFINITION. The loading commands LOAD_WORDS and LOAD_DATA (41_data_loading.md). -/

namespace Sys2Proof.Machine

/-- LOAD_WORDS (R120, R121): each word is cut to `L` bits. -/
def execLoadWords (w0 w1 w2 : Word) (s : State) : Answer :=
  whenConfigured (.loadWords w0 w1 w2) s fun L =>
    .next { s with
      sr := laneMap (maskTo L) { ch0 := w0, ch1 := w1, ch2 := w2 }
      scanComplete := false }

/-- LOAD_DATA on a configured bank (R122, R123, R127): a no-op for `LEN = 0`; stuck for a range past the top; else the transfer starts
afresh and the first chunk is filled, in one step. -/
def startTransfer (src len : Word) (s : State) : Answer :=
  if len = 0 then .next s
  else if rangeFits src.toNat len.toNat then
    answerOf (fill { s with srcPtr := src, remaining := len, index := 0 })
  else .fault (.stuckMem Config.addressTop)

/-- LOAD_DATA (R122). -/
def execLoadData (src len : Word) (s : State) : Answer :=
  whenConfigured (.loadData src len) s fun _ => startTransfer src len s

end Sys2Proof.Machine
end

