-- ==== Sys2Proof/Machine/Dispatch.lean ====
section
/-! DEFINITION. One arm per command: the meaning it calls. -/

namespace Sys2Proof.Machine

open Sys2Proof

/-- One command, as one atomic step (R15, R70). -/
def exec (i : Instr) (s : State) : Host.Outcome State Fault Refusal :=
  match i with
  | .configure len => Sys2Proof.Machine.execConfigure len s
  | .beginScan period => Sys2Proof.Machine.execBegin period s
  | .run => Sys2Proof.Machine.execRun s
  | .stop => Sys2Proof.Machine.execStop s
  | .clear => Sys2Proof.Machine.execClear s
  | .loadWords w0 w1 w2 => Sys2Proof.Machine.execLoadWords w0 w1 w2 s
  | .loadData src len => Sys2Proof.Machine.execLoadData src len s
  | .isComplete => Sys2Proof.Machine.execIsComplete s
  | .getOutput => Sys2Proof.Machine.execGetOutput s
  | .verify ref len => Sys2Proof.Machine.execVerify ref len s
  | .setObserver obs => Sys2Proof.Machine.execSetObserver obs s

end Sys2Proof.Machine
end

