-- ==== Sys2Proof/Machine/Tick.lean ====
section
/-! DEFINITION. TICK: one half period of the clock, as the timer runs it (42_clock_phase.md). It has no encoding (R92). -/

namespace Sys2Proof.Machine

/-- The rising half: CLK high, every register takes its sample (R141, R142). -/
def risingTick (L : BitVec 6) (din : Lanes Bool) (s : State) : State :=
  { s with
    clk := .high
    sr := laneZip (shiftIn L) s.sr din
    bitCount := s.bitCount + 1
    scanComplete := scanAfterRising s.params s.scanComplete
    phase := .falling }

/-- What a falling tick drives before it looks at the word (R143, R206): CLK low, every DOUT the top bit of its register. -/
def driveFalling (L : BitVec 6) (s : State) : State :=
  { s with clk := .low, dout := laneMap (topLevel L) s.sr, phase := .rising }

/-- Word completion, up to the advancement (R145). -/
def completeWord (s : State) : State := { s with bitCount := 0, scanComplete := true }

/-- The falling half (R143 to R145): the outputs first, then the completed word's advancement, all in one step. -/
def fallingTick (L : BitVec 6) (s : State) : Except Fault State :=
  if wordDone L s then advance L (completeWord (driveFalling L s)) else .ok (driveFalling L s)

/-- A tick on a bank with a chain length: nothing while Idle, else the half that `phase` names (R140). -/
def tickBody (L : BitVec 6) (din : Lanes Bool) (s : State) : Answer :=
  if running s then
    match s.phase with
    | .rising => .next (risingTick L din s)
    | .falling => answerOf (fallingTick L s)
  else .next s

/-- TICK (R140). Before BEGIN no TICK step exists (R104; log 8). -/
def tick (din : Lanes Bool) (s : State) : Answer :=
  match s.lifecycle with
  | .unconfigured => .refused .tickNotEnabled
  | .configured _ => .refused .tickNotEnabled
  | .begun L _ => tickBody L din s

end Sys2Proof.Machine
end

