-- ==== Sys2Proof/Machine/Agents.lean ====
section
/-! DEFINITION. What one step does with the input that comes next: a packet of the host, a tick of the timer, a store of the host
(R52, R69; log 2). -/

namespace Sys2Proof.Machine

/-- A step of the bank leaves its port values in the history (R54; log 12). -/
def observed (a : Answer) : Answer :=
  match a with
  | .next s => .next (recordPorts s)
  | .fault f => .fault f
  | .refused r => .refused r

/-- The host's packet: decoded, then run; words left over start the next packet. A packet the decoder refuses is dropped whole, with the
mark set and the header recorded (R88, R89, R91; log 7). -/
def packetStep (header : Word) (more : List Word) (rest : List Input) (s : State) : Answer :=
  match decode (header :: more) with
  | .error e => .next (refuse (decodeReason e) header { s with inputs := rest })
  | .ok (i, left) => exec i { s with inputs := pushBack left rest }

/-- One step: the next input is taken and acted on, whole. With none pending the bank waits (R221). -/
def inputStep (s : State) : Answer :=
  match s.inputs with
  | [] => .next s
  | .packet header more :: rest => observed (packetStep header more rest s)
  | .tick din :: rest => observed (tick din { s with inputs := rest })
  | .hostStore a v :: rest => hostStore a v { s with inputs := rest }

/-- `words` become the next packet, in front of the inputs already pending. -/
def presentWords (words : List Word) (s : State) : State := { s with inputs := pushBack words s.inputs }

end Sys2Proof.Machine
end

