-- ==== Sys2Proof/Machine/Step.lean ====
section
/-! DEFINITION. One step of the machine, and the placing of a packet where the next step takes it. -/

namespace Sys2Proof.Machine

/-- One atomic step of whichever agent comes next in `inputs` (R15, R69). -/
def step (s : State) : Host.Outcome State Fault Refusal := inputStep s

/-- The packet whose bits are `w` (numbered as `tableWords` says), presented by the host as the next input (log 2, log 18). -/
def State.withFetchWord (s : State) (nbits w : Nat) : State := presentWords (tableWords nbits w) s

end Sys2Proof.Machine
end

