-- ==== Sys2Proof/Machine/Assembler.lean ====
section
/-! DEFINITION. The spec's assembler syntax (R93): one line per packet, the lower-case mnemonic and its operands separated by commas,
each operand a decimal or `0x` hexadecimal unsigned literal. It adds no pseudo-instructions (R94). -/

namespace Sys2Proof.Machine

/-- The mnemonic of each opcode, as R93 spells it. -/
def mnemonicOf : Opcode → String
  | .configure => "configure"
  | .beginScan => "begin"
  | .run => "run"
  | .stop => "stop"
  | .clear => "clear"
  | .loadWords => "loadwords"
  | .loadData => "loaddata"
  | .isComplete => "iscomplete"
  | .getOutput => "getoutput"
  | .verify => "verify"
  | .setObserver => "setobserver"

/-- The eleven opcodes in table order (R84). -/
def allOpcodes : List Opcode :=
  [.configure, .beginScan, .run, .stop, .clear, .loadWords, .loadData, .isComplete, .getOutput, .verify, .setObserver]

/-- The opcode with this mnemonic. -/
def opcodeNamed (name : List Char) : Option Opcode := allOpcodes.find? fun op => (mnemonicOf op).toList == name

/-- The value of a digit below `base`; hexadecimal letters in either case (log 19). -/
def digitValue (base : Nat) (c : Char) : Option Nat :=
  let n := c.toNat
  let v :=
    if 48 ≤ n ∧ n ≤ 57 then some (n - 48)
    else if 97 ≤ n ∧ n ≤ 102 then some (n - 87)
    else if 65 ≤ n ∧ n ≤ 70 then some (n - 55)
    else none
  v.filter fun d => decide (d < base)

/-- A string of digits read after the value `acc`. -/
def digitsValue (base : Nat) : Nat → List Char → Option Nat
  | acc, [] => some acc
  | acc, c :: cs =>
    match digitValue base c with
    | none => none
    | some d => digitsValue base (base * acc + d) cs

/-- An unsigned literal that fits a word: `0x` and hexadecimal digits, or decimal digits. -/
def literalValue (text : List Char) : Option Word :=
  let value :=
    match text with
    | [] => none
    | ['0', 'x'] => none
    | '0' :: 'x' :: digits => digitsValue 16 0 digits
    | digits => digitsValue 10 0 digits
  match value with
  | some n => if n < 2 ^ 32 then some (BitVec.ofNat 32 n) else none
  | none => none

/-- The text split at every `sep`. -/
def splitAt (sep : Char) : List Char → List (List Char)
  | [] => [[]]
  | c :: cs =>
    if c = sep then [] :: splitAt sep cs
    else
      match splitAt sep cs with
      | [] => [[c]]
      | field :: fields => (c :: field) :: fields

/-- Every literal of a list, or none where one is not a literal. -/
def literalValues : List (List Char) → Option (List Word)
  | [] => some []
  | t :: ts =>
    match literalValue t, literalValues ts with
    | some w, some ws => some (w :: ws)
    | _, _ => none

/-- The packet words of one line (R93): the mnemonic is what stands before the first space, and the other spaces do not count (log 19).
None for a line that is not in the syntax, or has the wrong number of operands. -/
def assemble (line : List Char) : Option (List Word) :=
  let name := line.takeWhile (fun c => decide (c ≠ ' '))
  let tail := (line.dropWhile (fun c => decide (c ≠ ' '))).filter fun c => decide (c ≠ ' ')
  match opcodeNamed name with
  | none => none
  | some op =>
    match (if tail = [] then some [] else literalValues (splitAt ',' tail)) with
    | none => none
    | some words =>
      if words.length = op.nops then some (((0 : BitVec 28) ++ op.code) :: words) else none

end Sys2Proof.Machine
end

