-- ==== Sys2Proof/Machine/Registers.lean ====
section
/-! DEFINITION. The internal registers of R44, as views of the state. The numbering is presentational: the host cannot address them. -/

namespace Sys2Proof.Machine

/-- The two bits of `cfgState` (R44). -/
def cfgCode (c : CfgState) : BitVec 2 :=
  match c with
  | .unconfigured => 0
  | .configured => 1
  | .begun => 2

/-- Register 0, CFG: `cfgState` in [1:0], `L` in [7:2] (0 while there is none), [31:8] 0 (R44). -/
def regCfg (s : State) : Word :=
  (0 : BitVec 24) ++ (s.chainLength.getD 0 ++ cfgCode s.cfgState)

/-- Register 1, PERIOD: 0 while there is none (R44). -/
def regPeriod (s : State) : Word := s.period.getD 0

/-- Register 2, CTRL: `run`, `obsEn`, `phase`, `bitCount` in [8:3], `scanComplete`, `empty`, [31:11] 0 (R44). -/
def regCtrl (s : State) : Word :=
  (0 : BitVec 21) ++ (BitVec.ofBool s.empty ++ (BitVec.ofBool s.scanComplete ++ (s.bitCount ++
    (BitVec.ofBool (phaseBit s.phase) ++ (BitVec.ofBool s.obsEn ++ BitVec.ofBool (runBit s.run))))))

/-- Register 3, SRCPTR (R44). -/
def regSrcPtr (s : State) : Word := s.srcPtr

/-- Register 4, REMAIN (R44). -/
def regRemain (s : State) : Word := s.remaining

/-- Register 5, INDEX, in `IDX_W` bits (R37, R44). -/
def regIndex (s : State) : BitVec (indexWidth s.params.capacity) := BitVec.ofNat _ s.index

/-- Registers 6 to 8, SR0 to SR2 (R44). -/
def regShift (s : State) (i : Channel) : Word := laneGet s.sr i

end Sys2Proof.Machine
end

