-- ==== Sys2Proof/Safety.lean ====
section
/-! DEFINITION. What counts as a safe state: the final states of R238, the invariants the spec states of every state, and the work a
transfer has left. -/

namespace Sys2Proof.Machine

/-- The run has ended and has a meaning: no input is pending, nothing was refused, the engine is Idle (R238). -/
def State.Final (s : State) : Prop := s.inputs = [] ∧ s.refused = false ∧ s.run = .idle

/-- `L` is legal, and every register is confined to its low `L` bits (R22, R28); before CONFIGURE every register is 0, so that any `L`
will do (R100). -/
def State.RegistersConfined (s : State) : Prop :=
  match s.chainLength with
  | none => s.sr = laneAll 0
  | some L => (1 ≤ L.toNat ∧ L.toNat ≤ Config.maxChain) ∧ ∀ i : Channel, confined L (laneGet s.sr i) = true

/-- `0 <= bitCount <= L`, and `bitCount < L` before a rising tick (R147); 0 before CONFIGURE, and no tick has run before BEGIN, so the
clock and data-out lines are still at U and the phase is Rising (R48, R49, R104). -/
def State.ClockInStep (s : State) : Prop :=
  match s.lifecycle with
  | .unconfigured => s.bitCount = 0 ∧ s.phase = .rising ∧ s.clk = .undriven ∧ s.dout = laneAll .undriven
  | .configured _ => s.bitCount = 0 ∧ s.phase = .rising ∧ s.clk = .undriven ∧ s.dout = laneAll .undriven
  | .begun L _ => s.bitCount.toNat ≤ L.toNat ∧ (s.phase = .rising → s.bitCount.toNat < L.toNat)

/-- The enables are at U until BEGIN and active (0) ever after (R47). -/
def State.EnablesHeld (s : State) : Prop :=
  match s.lifecycle with
  | .unconfigured => s.enN = laneAll .undriven
  | .configured _ => s.enN = laneAll .undriven
  | .begun _ _ => s.enN = laneAll .low

/-- The chunk buffer (R9, R36, R37, R39): it has `C >= 1` positions; while it is not empty it has an unread byte; while it is empty its
index is `C` (drained) or 0 (never filled, or cleared), and no source byte is left. -/
def State.BufferCoherent (s : State) : Prop :=
  1 ≤ s.params.capacity ∧ s.buf.length = s.params.capacity ∧
  (s.empty = false → s.index < s.params.capacity) ∧
  (s.empty = true → (s.index = 0 ∨ s.index = s.params.capacity) ∧ s.remaining = 0)

/-- The source bytes still to copy lie below the top of the address space (R63, R128). -/
def State.SourceInRange (s : State) : Prop := s.srcPtr.toNat + s.remaining.toNat ≤ Config.addressTop

/-- The refused mark is set exactly when a refusal is recorded (R42, R201). -/
def State.MarkCoherent (s : State) : Prop := s.refused = true ↔ s.refusalLog ≠ []

/-- The invariant of the bank: what holds at power-on and after every step. -/
structure State.Inv (s : State) : Prop where
  registers : s.RegistersConfined
  clock : s.ClockInStep
  enables : s.EnablesHeld
  buffer : s.BufferCoherent
  source : s.SourceInRange
  mark : s.MarkCoherent
  memory : s.mem.wf = true

/-- How many `CHUNK_BOUNDARY` events the history holds (R165, R170). -/
def boundaryCount : List Event → Nat
  | [] => 0
  | .chunkBoundary :: h => boundaryCount h + 1
  | .response _ :: h => boundaryCount h
  | .ports _ _ _ :: h => boundaryCount h

/-- How many drains the transfer still has before it: one for the chunk in the buffer and one for each chunk still in the source,
`ceil(remaining / C)` (R170). -/
def drainsLeft (s : State) : Nat :=
  (if s.empty then 0 else 1) + (s.remaining.toNat + (s.params.capacity - 1)) / s.params.capacity

/-- TICKs one after another, with no command between them (R205). -/
def ticks : List (Lanes Bool) → State → Answer
  | [], s => .next s
  | d :: ds, s =>
    match tick d s with
    | .next t => ticks ds t
    | .fault f => .fault f
    | .refused r => .refused r

/-- The ticks of tick-pairs that start at a rising tick: each sample triple, then a tick that samples nothing (R19, R94). -/
def pairTicks (ds : List (Lanes Bool)) : List (Lanes Bool) := ds.flatMap fun d => [d, laneAll false]

end Sys2Proof.Machine
end

