-- ==== Sys2Proof/Certificates/Slice0/Obligations.lean ====
section
/-! DEFINITION. The statements about the bank, one for each entry of OBLIGATIONS.json. "Log n" in a docstring names the log entry whose
choice a clause rests on. -/

open Sys2Proof Sys2Proof.Machine

/-! ### Packets -/

/-- The decoder takes exactly the packets of 30_encoding.md: words decode to a command with some words left over if and only if they are
that command's packet followed by those words.
Rests on the spec's own decisions D1 and D2 (92_eei_decisions.md). -/
def Obligations.DecodeIffEncode : Prop :=
  ∀ (words : List Word) (i : Instr) (left : List Word), decode words = .ok (i, left) ↔ words = encode i ++ left

/-- The decoder's three refusals in their order (30_encoding.md section 3, 60_exceptions.md section 1): `OP` 0 or 12 to 15; else header
bits [31:4] not 0; else fewer operand words than the opcode asks for.
Rests on the spec's own decisions D2, D3 and D31 (92_eei_decisions.md). -/
def Obligations.DecoderRefusesByName : Prop :=
  ∀ (header : Word) (more : List Word),
    (header.toNat % 16 = 0 ∨ 12 ≤ header.toNat % 16 → decode (header :: more) = .error .reservedOp) ∧
    (1 ≤ header.toNat % 16 ∧ header.toNat % 16 ≤ 11 ∧ 16 ≤ header.toNat → decode (header :: more) = .error .reservedBits) ∧
    (∀ i : Instr, header = i.header → more.length < i.operands.length → decode (header :: more) = .error .badPacket)

/-- Words of 95_test_vectors.md section 2.1 and the packets of R93, written out.
Rests on the spec's own decisions D2 and D3 (92_eei_decisions.md). -/
def Obligations.SpecWordsDecode : Prop :=
  decode [0x00000001, 0x00000008] = .ok (.configure 8, []) ∧
  decode [0x00000006, 0x000000A5, 0x0000000F, 0x000000FF] = .ok (.loadWords 0xA5 0x0F 0xFF, []) ∧
  decode [0x0000000A, 0x00000200, 0x00000005] = .ok (.verify 0x200 5, []) ∧
  decode [0x00000010] = .error .reservedOp ∧
  decode [0x00000013] = .error .reservedBits ∧
  decode [0x00000006, 1, 2] = .error .badPacket ∧
  decode [0x0000000B, 0x00000002] = .ok (.setObserver 2, [])

/-- Lines of R93's syntax and the packet words R93 gives them; a line with an operand missing is none (log 19 for the spacing).
Rests on the spec's own decision D24 (92_eei_decisions.md). -/
def Obligations.AssemblerLines : Prop :=
  assemble "configure 40".toList = some [0x00000001, 40] ∧
  assemble "begin 10".toList = some [0x00000002, 10] ∧
  assemble "loadwords 0xA5, 0x0F, 0xFF".toList = some [0x00000006, 0xA5, 0x0F, 0xFF] ∧
  assemble "loaddata 0x100, 6".toList = some [0x00000007, 0x100, 6] ∧
  assemble "iscomplete".toList = some [0x00000008] ∧
  assemble "verify 0x300, 2".toList = some [0x0000000A, 0x300, 2] ∧
  assemble "setobserver 1".toList = some [0x0000000B, 1] ∧
  assemble "verify 0x300".toList = none

/-! ### Steps -/

/-- A step runs the decoded command: when the words of the next input decode to a command, the step is `exec` of it on the state whose
inputs are what follows, with the port values recorded after it (log 2, log 7, log 12). -/
def Obligations.StepRunsDecodedCommand : Prop :=
  ∀ (s : State) (header : Word) (more : List Word) (rest : List Input) (i : Instr) (left : List Word),
    s.inputs = .packet header more :: rest → decode (header :: more) = .ok (i, left) →
    (∀ t, exec i { s with inputs := pushBack left rest } = .next t →
      step s = .next { t with history := t.history ++ [.ports t.clk t.dout t.enN] }) ∧
    (∀ f, exec i { s with inputs := pushBack left rest } = .fault f → step s = .fault f)

/-- A packet the decoder refuses changes no state but the refused mark (R88, R91 in the reading of log 1); it is dropped whole (log 7),
its header is recorded (log 13), and the port values go into the history (log 12).
Rests on the spec's own decisions D3 and D31 (92_eei_decisions.md). -/
def Obligations.StepRefusesPacket : Prop :=
  ∀ (s : State) (header : Word) (more : List Word) (rest : List Input) (e : DecodeError),
    s.inputs = .packet header more :: rest → decode (header :: more) = .error e →
    step s = .next { s with
      inputs := rest
      refused := true
      refusalLog := s.refusalLog ++ [{ reason := decodeReason e, info := header }]
      history := s.history ++ [.ports s.clk s.dout s.enN] }

/-- The other inputs of a step (log 2): a tick is TICK with the ports recorded after it; with no input pending the bank waits. -/
def Obligations.StepTicksOrWaits : Prop :=
  ∀ s : State,
    (s.inputs = [] → step s = .next s) ∧
    (∀ d rest t, s.inputs = .tick d :: rest → tick d { s with inputs := rest } = .next t →
      step s = .next { t with history := t.history ++ [.ports t.clk t.dout t.enN] }) ∧
    (∀ d rest f, s.inputs = .tick d :: rest → tick d { s with inputs := rest } = .fault f → step s = .fault f)

/-- A host store while no transfer is under way, that is while no source byte is left to copy and the chunk buffer is empty (log 9): the
byte reads back as stored (or as not admitted), every other byte reads as before, and nothing but the memory changes.
Rests on the spec's own decisions D16 and D17 (92_eei_decisions.md). -/
def Obligations.HostStoreReadsBack : Prop :=
  ∀ (s : State) (a : Word) (v : Option Byte) (rest : List Input),
    s.mem.wf = true → s.inputs = .hostStore a v :: rest → s.remaining = 0 → s.empty = true →
    ∃ t, step s = .next t ∧ t = { s with inputs := rest, mem := t.mem } ∧ memRead t a.toNat = v ∧
      ∀ b, b ≠ a.toNat → memRead t b = memRead s b

/-- External memory is constant during a transfer (20_memory.md, sections 1 and 3): a step taken while a source byte is left to copy or
the chunk buffer is not empty leaves every byte as it was, whichever input it takes, and a host store there is refused by name, whatever
its address (log 9).
Rests on the spec's own decision D17 (92_eei_decisions.md). -/
def Obligations.MemoryIsConstantDuringATransfer : Prop :=
  ∀ s : State, s.remaining ≠ 0 ∨ s.empty = false →
    (∀ t, step s = .next t → ∀ a, memRead t a = memRead s a) ∧
    (∀ a v rest, s.inputs = .hostStore a v :: rest → step s = .refused (.storeDuringTransfer a))

/-- A transfer lasts until completion (20_memory.md, section 3; 10_state.md, section 5): LOAD_DATA of `LEN >= 1` bytes starts one, only a
tick that makes the transfer logically finished, so that IS_COMPLETE would report `true`, or a CLEAR ends it, and nothing but a LOAD_DATA
starts one (that CLEAR ends one is log 9).
Rests on the spec's own decisions D17 and D27 (92_eei_decisions.md). -/
def Obligations.TransferLastsUntilCompletion : Prop :=
  (∀ (s t : State) (L : BitVec 6) (src len : Word), s.chainLength = some L → len ≠ 0 → exec (.loadData src len) s = .next t →
    transferUnderWay t = true) ∧
  (∀ (s t : State) (d : Lanes Bool), tick d s = .next t → transferUnderWay s = true →
    transferUnderWay t = true ∨ finished t = true) ∧
  (∀ (s t : State) (i : Instr), exec i s = .next t → i.opcode ≠ .clear → transferUnderWay s = true → transferUnderWay t = true) ∧
  (∀ (s t : State) (d : Lanes Bool), tick d s = .next t → transferUnderWay s = false → transferUnderWay t = false) ∧
  (∀ (s t : State) (i : Instr), exec i s = .next t → i.opcode ≠ .loadData → transferUnderWay s = false → transferUnderWay t = false)

/-- Power-on (70_reset_and_hazards.md section 1) for every parameter, buffer draw, launch memory and environment; and the machine's reset
state is that state at the defaults of R9 and R11, with every buffer byte the free draw of its position (log 3, log 4, log 5).
Rests on the spec's own decisions D9, D10, D23, D27 and D29 (92_eei_decisions.md). -/
def Obligations.PowerOnValues : Prop :=
  (∀ (params : Params) (draws : List Byte) (mem : Memory) (inputs : List Input) (i : Channel),
    let s := State.powerOn params draws mem inputs
    s.cfgState = .unconfigured ∧ s.chainLength = none ∧ s.period = none ∧ s.run = .idle ∧ s.phase = .rising ∧ s.bitCount = 0 ∧
    s.scanComplete = false ∧ s.srcPtr = 0 ∧ s.remaining = 0 ∧ s.buf = draws ∧ s.index = 0 ∧ s.empty = true ∧ s.obsEn = false ∧
    laneGet s.sr i = 0 ∧ s.clk = .undriven ∧ laneGet s.dout i = .undriven ∧ laneGet s.enN i = .undriven ∧
    s.refused = false ∧ s.history = []) ∧
  State.reset = State.powerOn { capacity := 1024, sticky := false } ((List.range 1024).map Config.bufPowerOn) [] [] ∧
  ∀ k, bufAt State.reset k = Config.bufPowerOn k

/-! ### Whole-machine rules -/

/-- The invariant holds at power-on, whatever the parameters with `C >= 1`, the `C` buffer bytes, the (canonical) launch memory and the
environment; and at the machine's reset state.
Rests on the spec's own decision D9 (92_eei_decisions.md). -/
def Obligations.PowerOnMeetsInv : Prop :=
  (∀ (params : Params) (draws : List Byte) (mem : Memory) (inputs : List Input),
    1 ≤ params.capacity → draws.length = params.capacity → mem.wf = true → (State.powerOn params draws mem inputs).Inv) ∧
  State.reset.Inv

/-- Every step keeps the invariant: registers confined to `L` bits (R22), `0 <= bitCount <= L` (R147), enables held (R47), the chunk
buffer coherent (R39), the source range below the top (R128), the mark and its record agreeing, the memory canonical.
Rests on the spec's own decision D14 (92_eei_decisions.md). -/
def Obligations.StepKeepsInv : Prop :=
  ∀ s t : State, s.Inv → step s = .next t → t.Inv

/-- `refused`: false at power-on, set by every refusal, cleared by no step (R42).
Rests on the spec's own decision D31 (92_eei_decisions.md). -/
def Obligations.RefusedMarkIsSticky : Prop :=
  State.reset.refused = false ∧
  (∀ (reason : RefuseReason) (info : Word) (s : State), (refuse reason info s).refused = true) ∧
  (∀ s t : State, step s = .next t → s.refused = true → t.refused = true)

/-- The output history is a record (10_state.md section 11): a step adds to its end and changes nothing in it.
Rests on the spec's own decision D18 (92_eei_decisions.md). -/
def Obligations.HistoryOnlyGrows : Prop :=
  ∀ s t : State, step s = .next t → ∃ added : List Event, t.history = s.history ++ added

/-- The configuration is immutable (40_lifecycle.md): no step changes a stored chain length or a stored period, none returns to
Unconfigured, and none changes the parameters.
Rests on the spec's own decision D6 (92_eei_decisions.md). -/
def Obligations.ConfigurationIsImmutable : Prop :=
  ∀ s t : State, step s = .next t →
    (∀ L, s.chainLength = some L → t.chainLength = some L) ∧
    (∀ p, s.period = some p → t.period = some p) ∧
    t.params = s.params

/-- No command and no tick writes external memory (20_memory.md section 1): every byte reads after it as it read before. -/
def Obligations.CommandsAndTicksNeverWriteMemory : Prop :=
  (∀ (i : Instr) (s t : State), exec i s = .next t → ∀ a, memRead t a = memRead s a) ∧
  (∀ (d : Lanes Bool) (s t : State), tick d s = .next t → ∀ a, memRead t a = memRead s a)

/-- No command writes `phase`, CLK or DOUT (10_state.md sections 4 and 10: only a TICK does), nor the parameters or the inputs. -/
def Obligations.OnlyTicksWritePhaseAndLines : Prop :=
  ∀ (i : Instr) (s t : State), exec i s = .next t →
    t.phase = s.phase ∧ t.clk = s.clk ∧ t.dout = s.dout ∧ t.params = s.params ∧ t.inputs = s.inputs

/-- Which commands write what (10_state.md): every element a command is not named for is unchanged by it, and a tick writes none of
`cfgState`, `L`, `period`, `run`, `obsEn`, EN_N.
Rests on the spec's own decisions D8, D19 and D27 (92_eei_decisions.md). -/
def Obligations.EachElementHasItsWriters : Prop :=
  (∀ (i : Instr) (s t : State), exec i s = .next t →
    (i.opcode ≠ .configure ∧ i.opcode ≠ .beginScan → t.lifecycle = s.lifecycle) ∧
    (i.opcode ≠ .beginScan → t.enN = s.enN) ∧
    (i.opcode ≠ .run ∧ i.opcode ≠ .stop → t.run = s.run) ∧
    (i.opcode ≠ .run → t.bitCount = s.bitCount) ∧
    (i.opcode ≠ .run ∧ i.opcode ≠ .clear ∧ i.opcode ≠ .loadWords → t.scanComplete = s.scanComplete) ∧
    (i.opcode ≠ .clear ∧ i.opcode ≠ .loadWords → t.sr = s.sr) ∧
    (i.opcode ≠ .clear ∧ i.opcode ≠ .loadData →
      t.srcPtr = s.srcPtr ∧ t.remaining = s.remaining ∧ t.index = s.index ∧ t.empty = s.empty) ∧
    (i.opcode ≠ .loadData → t.buf = s.buf) ∧
    (i.opcode ≠ .setObserver → t.obsEn = s.obsEn) ∧
    (i.opcode.nresp = 0 → t.history = s.history)) ∧
  (∀ (d : Lanes Bool) (s t : State), tick d s = .next t →
    t.lifecycle = s.lifecycle ∧ t.run = s.run ∧ t.obsEn = s.obsEn ∧ t.enN = s.enN ∧ t.refused = s.refused ∧
    t.refusalLog = s.refusalLog ∧ t.inputs = s.inputs ∧ t.params = s.params)

/-! ### Lifecycle commands -/

/-- CONFIGURE on an unconfigured bank with `LEN` other than 0 stores `min(LEN, 32)` as `L` and changes nothing else. -/
def Obligations.ConfigureStoresClampedLength : Prop :=
  ∀ (s : State) (len : Word), s.lifecycle = .unconfigured → len ≠ 0 →
    ∃ L : BitVec 6, L.toNat = min len.toNat 32 ∧ exec (.configure len) s = .next { s with lifecycle := .configured L }

/-- CONFIGURE's refusals, in the reading of log 1 with the record of log 13: a second one, and `LEN = 0`. Each keeps everything but the
refused mark.
Rests on the spec's own decisions D5, D6 and D31 (92_eei_decisions.md). -/
def Obligations.ConfigureRefusals : Prop :=
  ∀ (s : State) (len : Word),
    (∀ L, s.chainLength = some L → exec (.configure len) s =
      .next { s with refused := true, refusalLog := s.refusalLog ++ [{ reason := .reconfigure, info := len }] }) ∧
    (s.lifecycle = .unconfigured → len = 0 → exec (.configure len) s =
      .next { s with refused := true, refusalLog := s.refusalLog ++ [{ reason := .zeroChain, info := len }] })

/-- BEGIN on a configured bank stores `PERIOD` as it is, drives the three enables to 0, and changes nothing else: `run` stays, and CLK
and DOUT get no level.
Rests on the spec's own decision D20 (92_eei_decisions.md). -/
def Obligations.BeginDrivesEnables : Prop :=
  ∀ (s : State) (L : BitVec 6) (period : Word), s.lifecycle = .configured L →
    ∃ t, exec (.beginScan period) s = .next t ∧ t.cfgState = .begun ∧ t.chainLength = some L ∧ t.period = some period ∧
      (∀ i : Channel, laneGet t.enN i = .low) ∧ t = { s with lifecycle := t.lifecycle, enN := t.enN }

/-- BEGIN's refusals, in the reading of log 1 with the record of log 13: before CONFIGURE, and a second time.
Rests on the spec's own decisions D6 and D31 (92_eei_decisions.md). -/
def Obligations.BeginRefusals : Prop :=
  ∀ (s : State) (period : Word),
    (s.lifecycle = .unconfigured → exec (.beginScan period) s =
      .next { s with refused := true, refusalLog := s.refusalLog ++ [{ reason := .notConfigured, info := 0x00000002 }] }) ∧
    (∀ L p, s.lifecycle = .begun L p → exec (.beginScan period) s =
      .next { s with refused := true, refusalLog := s.refusalLog ++ [{ reason := .rebegin, info := period }] })

/-- RUN resets `bitCount` to 0 and leaves `phase` as it is (R106); it sets `run`, clears `scanComplete`, and changes nothing else.
Rests on the spec's own decisions D8 and D30 (92_eei_decisions.md). -/
def Obligations.RunRealignsTheWord : Prop :=
  ∀ (s : State) (L : BitVec 6), s.chainLength = some L →
    ∃ t, exec .run s = .next t ∧ t.bitCount = 0 ∧ t.phase = s.phase ∧ t.run = .running ∧ t.scanComplete = false ∧
      t = { s with run := t.run, scanComplete := t.scanComplete, bitCount := t.bitCount }

/-- STOP resets no state: it sets `run` to Idle and nothing else, a second STOP in a row changes nothing, and from then on a tick of a
begun bank changes nothing (R108). -/
def Obligations.StopSuppressesTicks : Prop :=
  ∀ (s : State) (L : BitVec 6), s.chainLength = some L →
    ∃ t, exec .stop s = .next t ∧ t = { s with run := .idle } ∧ exec .stop t = .next t ∧
      ∀ (L' : BitVec 6) (p : Word) (d : Lanes Bool), s.lifecycle = .begun L' p → tick d t = .next t

/-- CLEAR zeroes the registers and resets the transfer, leaves everything else (R110), and a second CLEAR changes nothing more (R111).
Rests on the spec's own decisions D19 and D27 (92_eei_decisions.md). -/
def Obligations.ClearIsIdempotent : Prop :=
  ∀ (s : State) (L : BitVec 6), s.chainLength = some L →
    ∃ t, exec .clear s = .next t ∧ (∀ i : Channel, laneGet t.sr i = 0) ∧ t.srcPtr = 0 ∧ t.remaining = 0 ∧ t.index = 0 ∧
      t.empty = true ∧ t.scanComplete = false ∧
      t = { s with
        sr := t.sr
        srcPtr := t.srcPtr
        remaining := t.remaining
        index := t.index
        empty := t.empty
        scanComplete := t.scanComplete } ∧
      exec .clear t = .next t

/-- Every command but CONFIGURE is refused while Unconfigured (40_lifecycle.md, Lifecycle state machine), in the reading of log 1: the mark
is set, its header is recorded (log 13), and nothing else changes. SET_OBSERVER's reserved bits do not come first.
Rests on the spec's own decisions D6 and D31 (92_eei_decisions.md). -/
def Obligations.UnconfiguredRefusesEveryOtherCommand : Prop :=
  ∀ (s : State) (i : Instr), s.lifecycle = .unconfigured → i.opcode ≠ .configure →
    exec i s = .next { s with
      refused := true
      refusalLog := s.refusalLog ++ [{ reason := .notConfigured, info := i.header }] }

/-! ### Loading commands -/

/-- LOAD_WORDS discards the bits of each operand from `L` up (R121), clears `scanComplete`, and changes nothing else.
Rests on the spec's own decision D14 (92_eei_decisions.md). -/
def Obligations.LoadWordsTruncates : Prop :=
  ∀ (s : State) (L : BitVec 6) (w0 w1 w2 : Word), s.chainLength = some L →
    ∃ t, exec (.loadWords w0 w1 w2) s = .next t ∧ t.scanComplete = false ∧
      t = { s with sr := t.sr, scanComplete := t.scanComplete } ∧
      (laneGet t.sr 0).toNat = w0.toNat % 2 ^ L.toNat ∧
      (laneGet t.sr 1).toNat = w1.toNat % 2 ^ L.toNat ∧
      (laneGet t.sr 2).toNat = w2.toNat % 2 ^ L.toNat

/-- LOAD_DATA of `LEN >= 1` bytes that lie below `2^32`, the first chunk's admitted (41_data_loading.md, LOAD_DATA and Chunk fill): the
first `n = min(LEN, C)` buffer bytes are the source's, the later ones keep what they held, the source pointer and the remaining length
move by `n`, and nothing but these and `index`, `empty` changes. -/
def Obligations.LoadDataFillsFirstChunk : Prop :=
  ∀ (s : State) (L : BitVec 6) (src len : Word), s.chainLength = some L → len ≠ 0 → src.toNat + len.toNat ≤ 2 ^ 32 →
    (∀ k, k < min len.toNat s.params.capacity → memRead s (src.toNat + k) ≠ none) →
    ∃ t, exec (.loadData src len) s = .next t ∧
      (∀ k, k < min len.toNat s.params.capacity → memRead s (src.toNat + k) = some (bufAt t k)) ∧
      (∀ k, min len.toNat s.params.capacity ≤ k → bufAt t k = bufAt s k) ∧
      t.srcPtr.toNat = (src.toNat + min len.toNat s.params.capacity) % 2 ^ 32 ∧
      t.remaining.toNat = len.toNat - min len.toNat s.params.capacity ∧
      t.index = 0 ∧ t.empty = false ∧
      t = { s with buf := t.buf, srcPtr := t.srcPtr, remaining := t.remaining, index := t.index, empty := t.empty }

/-- LOAD_DATA with `LEN = 0` writes nothing, reads nothing and returns nothing (R123).
Rests on the spec's own decision D15 (92_eei_decisions.md). -/
def Obligations.LoadDataZeroIsNoOp : Prop :=
  ∀ (s : State) (L : BitVec 6) (src : Word), s.chainLength = some L → exec (.loadData src 0) s = .next s

/-- LOAD_DATA is stuck when its whole range passes `2^32`, and when a byte of its first chunk is not admitted (41_data_loading.md; the
address a stuck outcome names is log 6).
Rests on the spec's own decision D16 (92_eei_decisions.md). -/
def Obligations.LoadDataStuck : Prop :=
  ∀ (s : State) (L : BitVec 6) (src len : Word), s.chainLength = some L → len ≠ 0 →
    (2 ^ 32 < src.toNat + len.toNat ∨ ∃ k, k < min len.toNat s.params.capacity ∧ memRead s (src.toNat + k) = none) →
    ∃ a, exec (.loadData src len) s = .fault (.stuckMem a)

/-- The end of the source range never moves (41_data_loading.md, Length arithmetic): LOAD_DATA makes `srcPtr + remaining` the end of the
range it was given, modulo `2^32`, and no tick changes it. -/
def Obligations.SourceEndIsKept : Prop :=
  (∀ (s t : State) (L : BitVec 6) (src len : Word), s.chainLength = some L → len ≠ 0 → exec (.loadData src len) s = .next t →
    t.srcPtr + t.remaining = src + len) ∧
  (∀ (s t : State) (d : Lanes Bool), tick d s = .next t → t.srcPtr + t.remaining = s.srcPtr + s.remaining)

/-! ### The tick -/

/-- A rising tick (42_clock_phase.md, R141): CLK high, each register becomes `(2 SR + d) mod 2^L` with its own sample, `bitCount` goes up by
one, `scanComplete` is cleared unless sticky, `phase` becomes Falling, and nothing else changes.
The `scanComplete` clause is R142, the spec's own decision D23 (92_eei_decisions.md; log 17, C5). -/
def Obligations.RisingTickShifts : Prop :=
  ∀ (s : State) (L : BitVec 6) (p : Word) (d : Lanes Bool), s.lifecycle = .begun L p → s.run = .running → s.phase = .rising →
    L.toNat ≤ 32 → s.bitCount.toNat < 63 →
    ∃ t, tick d s = .next t ∧ t.clk = .high ∧
      (∀ i : Channel, (laneGet t.sr i).toNat = (2 * (laneGet s.sr i).toNat + (laneGet d i).toNat) % 2 ^ L.toNat) ∧
      t.bitCount.toNat = s.bitCount.toNat + 1 ∧
      t.scanComplete = (if s.params.sticky then s.scanComplete else false) ∧ t.phase = .falling ∧
      t = { s with clk := t.clk, sr := t.sr, bitCount := t.bitCount, scanComplete := t.scanComplete, phase := t.phase }

/-- A falling tick that does not complete a word (42_clock_phase.md, Falling tick): CLK low, each DOUT the bit `L - 1` of its register,
`phase` Rising, and nothing else changes. -/
def Obligations.FallingTickDrivesTopBits : Prop :=
  ∀ (s : State) (L : BitVec 6) (p : Word) (d : Lanes Bool), s.lifecycle = .begun L p → s.run = .running → s.phase = .falling →
    s.bitCount ≠ L →
    ∃ t, tick d s = .next t ∧ t.clk = .low ∧ t.phase = .rising ∧
      (∀ i : Channel, laneGet t.dout i = if (laneGet s.sr i).toNat.testBit (L.toNat - 1) then .high else .low) ∧
      t = { s with clk := t.clk, dout := t.dout, phase := t.phase }

/-- A falling tick that completes a word on an empty chunk buffer (42_clock_phase.md, Word completion; 43_chunk_advance.md, Consequences):
DOUT shows the word just shifted, `bitCount` is 0, `scanComplete` is true, and every register keeps its shifted value. -/
def Obligations.CompletionOnEmptyBufferKeepsRegisters : Prop :=
  ∀ (s : State) (L : BitVec 6) (p : Word) (d : Lanes Bool), s.lifecycle = .begun L p → s.run = .running → s.phase = .falling →
    s.bitCount = L → s.empty = true →
    ∃ t, tick d s = .next t ∧ t.clk = .low ∧ t.phase = .rising ∧ t.bitCount = 0 ∧ t.scanComplete = true ∧
      (∀ i : Channel, laneGet t.dout i = if (laneGet s.sr i).toNat.testBit (L.toNat - 1) then .high else .low) ∧
      t = { s with clk := t.clk, dout := t.dout, phase := t.phase, bitCount := t.bitCount, scanComplete := t.scanComplete }

/-- A completed word whose advancement does not reach the capacity (43_chunk_advance.md, Advancement): channel `i` takes the byte at
`index + i`, masked to `L` bits, `index` goes up by 3, nothing is drained and no event is emitted.
Rests on the spec's own decisions D12 and D14 (92_eei_decisions.md). -/
def Obligations.AdvancementLoadsThreeBytes : Prop :=
  ∀ (s : State) (L : BitVec 6) (p : Word) (d : Lanes Bool), s.lifecycle = .begun L p → s.run = .running → s.phase = .falling →
    s.bitCount = L → s.empty = false → s.index + 3 < s.params.capacity →
    ∃ t, tick d s = .next t ∧
      (∀ i : Channel, (laneGet t.sr i).toNat = (bufAt s (s.index + i.val)).toNat % 2 ^ L.toNat) ∧
      (∀ i : Channel, laneGet t.dout i = if (laneGet s.sr i).toNat.testBit (L.toNat - 1) then .high else .low) ∧
      t.index = s.index + 3 ∧ t.clk = .low ∧ t.phase = .rising ∧ t.bitCount = 0 ∧ t.scanComplete = true ∧
      t = { s with
        clk := t.clk
        dout := t.dout
        phase := t.phase
        bitCount := t.bitCount
        scanComplete := t.scanComplete
        sr := t.sr
        index := t.index }

/-- The final drain (43_chunk_advance.md): the advancement reaches the capacity with no source byte left. Channels below `C - index` take
their byte, the others keep their register, DOUT shows the old registers' top bits, `index` is `C`, the buffer is empty, and a registered
observer hears of it exactly once.
Rests on the spec's own decisions D11, D12 and D14 (92_eei_decisions.md). -/
def Obligations.FinalDrain : Prop :=
  ∀ (s : State) (L : BitVec 6) (p : Word) (d : Lanes Bool), s.lifecycle = .begun L p → s.run = .running → s.phase = .falling →
    s.bitCount = L → s.empty = false → s.index < s.params.capacity → s.params.capacity ≤ s.index + 3 → s.remaining = 0 →
    ∃ t, tick d s = .next t ∧
      (∀ i : Channel, (laneGet t.sr i).toNat =
        if s.index + i.val < s.params.capacity then (bufAt s (s.index + i.val)).toNat % 2 ^ L.toNat else (laneGet s.sr i).toNat) ∧
      (∀ i : Channel, laneGet t.dout i = if (laneGet s.sr i).toNat.testBit (L.toNat - 1) then .high else .low) ∧
      t.index = s.params.capacity ∧ t.empty = true ∧
      t.history = s.history ++ (if s.obsEn then [.chunkBoundary] else []) ∧
      t.clk = .low ∧ t.phase = .rising ∧ t.bitCount = 0 ∧ t.scanComplete = true ∧
      t = { s with
        clk := t.clk
        dout := t.dout
        phase := t.phase
        bitCount := t.bitCount
        scanComplete := t.scanComplete
        sr := t.sr
        index := t.index
        empty := t.empty
        history := t.history }

/-- A drain with a refill (43_chunk_advance.md): the advancement reaches the capacity with source bytes left, all of the next chunk
admitted. The same tick drives DOUT with the old registers' top bits, loads the channels from the old buffer, copies the next `n = min(remaining, C)` bytes over the first positions,
moves the source by `n`, restarts `index` at 0 with the buffer not empty, and tells a registered observer exactly once.
Rests on the spec's own decisions D10 to D14 (92_eei_decisions.md). -/
def Obligations.DrainRefills : Prop :=
  ∀ (s : State) (L : BitVec 6) (p : Word) (d : Lanes Bool), s.lifecycle = .begun L p → s.run = .running → s.phase = .falling →
    s.bitCount = L → s.empty = false → s.index < s.params.capacity → s.params.capacity ≤ s.index + 3 → s.remaining ≠ 0 →
    (∀ k, k < min s.remaining.toNat s.params.capacity → memRead s (s.srcPtr.toNat + k) ≠ none) →
    ∃ t, tick d s = .next t ∧
      (∀ i : Channel, (laneGet t.sr i).toNat =
        if s.index + i.val < s.params.capacity then (bufAt s (s.index + i.val)).toNat % 2 ^ L.toNat else (laneGet s.sr i).toNat) ∧
      (∀ i : Channel, laneGet t.dout i = if (laneGet s.sr i).toNat.testBit (L.toNat - 1) then .high else .low) ∧
      (∀ k, k < min s.remaining.toNat s.params.capacity → memRead s (s.srcPtr.toNat + k) = some (bufAt t k)) ∧
      (∀ k, min s.remaining.toNat s.params.capacity ≤ k → bufAt t k = bufAt s k) ∧
      t.srcPtr.toNat = (s.srcPtr.toNat + min s.remaining.toNat s.params.capacity) % 2 ^ 32 ∧
      t.remaining.toNat = s.remaining.toNat - min s.remaining.toNat s.params.capacity ∧
      t.index = 0 ∧ t.empty = false ∧
      t.history = s.history ++ (if s.obsEn then [.chunkBoundary] else []) ∧
      t.clk = .low ∧ t.phase = .rising ∧ t.bitCount = 0 ∧ t.scanComplete = true ∧
      t = { s with
        clk := t.clk
        dout := t.dout
        phase := t.phase
        bitCount := t.bitCount
        scanComplete := t.scanComplete
        sr := t.sr
        buf := t.buf
        srcPtr := t.srcPtr
        remaining := t.remaining
        index := t.index
        empty := t.empty
        history := t.history }

/-- A tick whose refill meets a byte that is not admitted is stuck as a whole (43_chunk_advance.md, refill; the address is log 6).
Rests on the spec's own decisions D16 and D31 (92_eei_decisions.md). -/
def Obligations.RefillStuck : Prop :=
  ∀ (s : State) (L : BitVec 6) (p : Word) (d : Lanes Bool), s.lifecycle = .begun L p → s.run = .running → s.phase = .falling →
    s.bitCount = L → s.empty = false → s.index < s.params.capacity → s.params.capacity ≤ s.index + 3 → s.remaining ≠ 0 →
    (∃ k, k < min s.remaining.toNat s.params.capacity ∧ memRead s (s.srcPtr.toNat + k) = none) →
    ∃ a, tick d s = .fault (.stuckMem a)

/-- A TICK is enabled only once the bank is Begun (40_lifecycle.md, BEGIN; before it the step is refused by name, log 8), and while Idle it
changes nothing (42_clock_phase.md, TICK dispatch).
Rests on the spec's own decision D7 (92_eei_decisions.md). -/
def Obligations.TickNeedsBeginAndRun : Prop :=
  ∀ (s : State) (d : Lanes Bool),
    (s.period = none → tick d s = .refused .tickNotEnabled) ∧
    (∀ p, s.period = some p → s.run = .idle → tick d s = .next s)

/-- DIN is sampled only by a rising tick taken while Running (R50): any other tick answers the same whatever the samples are.
Rests on the spec's own decision D26 (92_eei_decisions.md). -/
def Obligations.SamplesMatterOnlyOnRisingTicks : Prop :=
  ∀ (s : State) (d d' : Lanes Bool), ¬ (s.run = .running ∧ s.phase = .rising) → tick d s = tick d' s

/-- Each lane's shift result depends only on that lane's register and sample (42_clock_phase.md, Lane semantics): two begun, running,
rising banks of one chain length that agree on a channel's register and sample agree on its register after the tick, whatever else
differs. -/
def Obligations.LanesAreIndependent : Prop :=
  ∀ (s s' t t' : State) (L : BitVec 6) (p p' : Word) (d d' : Lanes Bool) (i : Channel),
    s.lifecycle = .begun L p → s'.lifecycle = .begun L p' → s.run = .running → s'.run = .running →
    s.phase = .rising → s'.phase = .rising →
    laneGet s.sr i = laneGet s'.sr i → laneGet d i = laneGet d' i →
    tick d s = .next t → tick d' s' = .next t' → laneGet t.sr i = laneGet t'.sr i

/-- The repeated-bit property (R149): after exactly `L` tick-pairs that start at a rising tick, with the same bit `b` on channel `i` at
every rising tick, the channel's register is `b` repeated `L` times, if the completion inside finds the buffer empty or the channel
without a byte. On an empty buffer the tick-pairs always complete. -/
def Obligations.RepeatedBitFillsRegister : Prop :=
  ∀ (s : State) (L : BitVec 6) (p : Word) (ds : List (Lanes Bool)) (i : Channel) (b : Bool),
    s.lifecycle = .begun L p → 1 ≤ L.toNat → L.toNat ≤ 32 → s.run = .running → s.phase = .rising → s.bitCount.toNat < L.toNat →
    ds.length = L.toNat → (∀ d, d ∈ ds → laneGet d i = b) →
    (s.empty = true ∨ s.params.capacity ≤ s.index + i.val) →
    (∀ t, ticks (pairTicks ds) s = .next t → (laneGet t.sr i).toNat = if b then 2 ^ L.toNat - 1 else 0) ∧
    (s.empty = true → ∃ t, ticks (pairTicks ds) s = .next t)

/-- A word takes `L` tick-pairs (42_clock_phase.md): counted from a RUN (`bitCount = 0`) at a rising phase and with no stuck refill,
`bitCount` is the number of pairs so far, and at the `L`-th the word completes. The flag is down before that, but for a sticky flag that
was up when the word began.
Rests on the spec's own decisions D8 and D23 (92_eei_decisions.md). -/
def Obligations.WordTakesLPairs : Prop :=
  ∀ (s t : State) (L : BitVec 6) (p : Word) (ds : List (Lanes Bool)),
    s.lifecycle = .begun L p → 1 ≤ L.toNat → L.toNat ≤ 32 → s.run = .running → s.phase = .rising → s.bitCount = 0 →
    ds ≠ [] → ds.length ≤ L.toNat → ticks (pairTicks ds) s = .next t →
    t.phase = .rising ∧ t.bitCount.toNat = ds.length % L.toNat ∧
    (t.scanComplete = true ↔ ds.length = L.toNat ∨ (s.params.sticky = true ∧ s.scanComplete = true))

/-- The top bit of a register at a rising phase is never driven (42_clock_phase.md, the lost top bit): after the next tick-pair DOUT shows
bit `L - 2` of it, or the sample where `L = 1`. -/
def Obligations.TopBitIsShiftedOutUnseen : Prop :=
  ∀ (s t : State) (L : BitVec 6) (p : Word) (d d' : Lanes Bool) (i : Channel),
    s.lifecycle = .begun L p → 1 ≤ L.toNat → L.toNat ≤ 32 → s.run = .running → s.phase = .rising →
    ticks [d, d'] s = .next t →
    laneGet t.dout i =
      if (if L.toNat = 1 then laneGet d i else (laneGet s.sr i).toNat.testBit (L.toNat - 2)) then .high else .low

/-- A tick sees external memory only through the source bytes not yet copied (20_memory.md): two memories that read alike on
`[srcPtr, srcPtr + remaining)` give the same tick, up to the memory itself. -/
def Obligations.TickReadsOnlyThePendingSource : Prop :=
  ∀ (s : State) (m : Memory) (d : Lanes Bool),
    (∀ k, k < s.remaining.toNat → memRead { s with mem := m } (s.srcPtr.toNat + k) = memRead s (s.srcPtr.toNat + k)) →
    (∀ t, tick d s = .next t → tick d { s with mem := m } = .next { t with mem := m }) ∧
    (∀ f, tick d s = .fault f → tick d { s with mem := m } = .fault f)

/-- One tick moves each drain it makes from the drains still to come to the events heard (43_chunk_advance.md): with an observer
registered, events heard plus drains left is unchanged; without one, no event is heard. -/
def Obligations.EachDrainIsHeardOnce : Prop :=
  ∀ (s t : State) (d : Lanes Bool), s.Inv → tick d s = .next t →
    (s.obsEn = true → boundaryCount t.history + drainsLeft t = boundaryCount s.history + drainsLeft s) ∧
    (s.obsEn = false → boundaryCount t.history = boundaryCount s.history)

/-- The observer event (R165): a tick of a bank that meets the invariant adds exactly one CHUNK_BOUNDARY if it drains the chunk buffer
(a running, falling tick that completes a word while the buffer is not empty and at most three bytes are unread) with an observer
registered, with or without a refill, and none otherwise. No command adds one, LOAD_DATA's first fill included. -/
def Obligations.DrainEmitsOneEvent : Prop :=
  (∀ (s t : State) (d : Lanes Bool), s.Inv → tick d s = .next t →
    boundaryCount t.history = boundaryCount s.history +
      if s.obsEn = true ∧ s.run = .running ∧ s.phase = .falling ∧ s.chainLength = some s.bitCount ∧ s.empty = false ∧
        s.params.capacity ≤ s.index + 3 then 1 else 0) ∧
  (∀ (i : Instr) (s t : State), exec i s = .next t → boundaryCount t.history = boundaryCount s.history)

/-- A whole transfer (43_chunk_advance.md, Consequences): from any state that meets the invariant, with an observer registered, LOAD_DATA of
`LEN >= 1` bytes followed by any ticks that bring the transfer to its end (no source byte left, buffer empty) is heard as exactly
`ceil(LEN / C)` CHUNK_BOUNDARY events; and while it has not ended, fewer have been heard. -/
def Obligations.TransferIsHeardInFull : Prop :=
  ∀ (s t u : State) (L : BitVec 6) (src len : Word) (ds : List (Lanes Bool)),
    s.Inv → s.chainLength = some L → s.obsEn = true → len ≠ 0 →
    exec (.loadData src len) s = .next t → ticks ds t = .next u →
    (u.remaining = 0 ∧ u.empty = true →
      boundaryCount u.history = boundaryCount s.history + (len.toNat + (s.params.capacity - 1)) / s.params.capacity) ∧
    (¬ (u.remaining = 0 ∧ u.empty = true) →
      boundaryCount u.history < boundaryCount s.history + (len.toNat + (s.params.capacity - 1)) / s.params.capacity)

/-! ### Completion and verification -/

/-- IS_COMPLETE on a configured bank responds one word (44_completion_verify.md): 1 exactly if `scanComplete`, `remaining = 0` and `empty`,
else 0. Nothing else changes. -/
def Obligations.IsCompleteResponds : Prop :=
  ∀ (s : State) (L : BitVec 6), s.chainLength = some L →
    ∃ w : Word, exec .isComplete s = .next { s with history := s.history ++ [.response [w]] } ∧
      w.toNat = if s.scanComplete = true ∧ s.remaining = 0 ∧ s.empty = true then 1 else 0

/-- GET_OUTPUT on a configured bank responds the three registers of one state, channel 0 first (44_completion_verify.md). Nothing else
changes. -/
def Obligations.GetOutputSnapshots : Prop :=
  ∀ (s : State) (L : BitVec 6), s.chainLength = some L →
    exec .getOutput s =
      .next { s with history := s.history ++ [.response [laneGet s.sr 0, laneGet s.sr 1, laneGet s.sr 2]] }

/-- VERIFY of a length other than `remaining + index` responds 0, whatever the memory holds (44_completion_verify.md). -/
def Obligations.VerifyWrongLengthAnswersZero : Prop :=
  ∀ (s : State) (m : Memory) (L : BitVec 6) (ref len : Word), s.chainLength = some L → len.toNat ≠ s.remaining.toNat + s.index →
    exec (.verify ref len) { s with mem := m } = .next { s with mem := m, history := s.history ++ [.response [0]] }

/-- VERIFY of the right length, with its range below `2^32` and every byte of both ranges admitted (44_completion_verify.md): it responds 1
exactly if the buffer positions `[0, index)` and then the source bytes not yet copied are, in order, the reference's bytes, else 0.
Nothing else changes.
Rests on the spec's own decision D28 (92_eei_decisions.md). -/
def Obligations.VerifyComparesEveryByte : Prop :=
  ∀ (s : State) (L : BitVec 6) (ref len : Word), s.chainLength = some L → len.toNat = s.remaining.toNat + s.index →
    ref.toNat + len.toNat ≤ 2 ^ 32 →
    (∀ k, k < len.toNat → memRead s (ref.toNat + k) ≠ none) →
    (∀ k, k < s.remaining.toNat → memRead s (s.srcPtr.toNat + k) ≠ none) →
    ∃ w : Word, exec (.verify ref len) s = .next { s with history := s.history ++ [.response [w]] } ∧ (w = 0 ∨ w = 1) ∧
      (w = 1 ↔
        (∀ k, k < s.index → memRead s (ref.toNat + k) = some (bufAt s k)) ∧
        (∀ k, k < s.remaining.toNat → memRead s (s.srcPtr.toNat + k) = memRead s (ref.toNat + s.index + k)))

/-- VERIFY of the right length is stuck when its range passes `2^32` or a byte of either range is not admitted, even where an earlier byte
differs (44_completion_verify.md; the address is log 6).
Rests on the spec's own decisions D16 and D28 (92_eei_decisions.md). -/
def Obligations.VerifyStuck : Prop :=
  ∀ (s : State) (L : BitVec 6) (ref len : Word), s.chainLength = some L → len.toNat = s.remaining.toNat + s.index →
    (2 ^ 32 < ref.toNat + len.toNat ∨ (∃ k, k < len.toNat ∧ memRead s (ref.toNat + k) = none) ∨
      ∃ k, k < s.remaining.toNat ∧ memRead s (s.srcPtr.toNat + k) = none) →
    ∃ a, exec (.verify ref len) s = .fault (.stuckMem a)

/-- IS_COMPLETE, GET_OUTPUT and VERIFY write no block state (44_completion_verify.md, R186): on a configured bank the one thing that differs is the response words
added to the history. The refusal of an unconfigured one adds no response, and only the mark of a refusal with its record differs.
That clause rests on the spec's own decisions D6 and D31 (92_eei_decisions.md) in the reading of log 1, with the record of log 13. -/
def Obligations.ReadersWriteNothing : Prop :=
  ∀ (s t : State) (i : Instr), i.opcode = .isComplete ∨ i.opcode = .getOutput ∨ i.opcode = .verify → exec i s = .next t →
    (s.chainLength ≠ none → ∃ words : List Word, t = { s with history := s.history ++ [.response words] }) ∧
    (s.chainLength = none → t = { s with refused := t.refused, refusalLog := t.refusalLog })

/-- VERIFY never reads the shift registers (44_completion_verify.md, VERIFY): with other register contents it gives the same outcome. -/
def Obligations.VerifyIgnoresRegisters : Prop :=
  ∀ (s : State) (v : Lanes Word) (ref len : Word),
    (∀ t, exec (.verify ref len) s = .next t → exec (.verify ref len) { s with sr := v } = .next { t with sr := v }) ∧
    (∀ f, exec (.verify ref len) s = .fault f → exec (.verify ref len) { s with sr := v } = .fault f)

/-- SET_OBSERVER with `OBS` 0 or 1 on a configured bank sets `obsEn` to it and changes nothing else (43_chunk_advance.md).
Rests on the spec's own decision D18 (92_eei_decisions.md). -/
def Obligations.SetObserverWritesFlag : Prop :=
  ∀ (s : State) (L : BitVec 6) (obs : Word), s.chainLength = some L → obs.toNat ≤ 1 →
    exec (.setObserver obs) s = .next { s with obsEn := decide (obs.toNat = 1) }

/-- SET_OBSERVER with a reserved operand bit set is refused on a configured bank, in the reading of log 1 with the record of log 13:
`obsEn` stays.
Rests on the spec's own decisions D3, D18 and D31 (92_eei_decisions.md). -/
def Obligations.SetObserverRefusesReservedBits : Prop :=
  ∀ (s : State) (L : BitVec 6) (obs : Word), s.chainLength = some L → 2 ≤ obs.toNat →
    exec (.setObserver obs) s =
      .next { s with refused := true, refusalLog := s.refusalLog ++ [{ reason := .reservedBits, info := obs }] }

/-- The packing of the internal registers (10_state.md section 9): every field at its bits, the reserved bits 0, and under the invariant
INDEX holds the whole index.
Rests on the spec's own decision D33 (92_eei_decisions.md). -/
def Obligations.InternalRegisterFields : Prop :=
  ∀ s : State,
    (regCfg s).extractLsb' 8 24 = 0 ∧ (regCfg s).extractLsb' 2 6 = s.chainLength.getD 0 ∧
    ((regCfg s).extractLsb' 0 2).toNat = (match s.cfgState with | .unconfigured => 0 | .configured => 1 | .begun => 2) ∧
    (regCtrl s).extractLsb' 11 21 = 0 ∧ (regCtrl s).getLsbD 10 = s.empty ∧ (regCtrl s).getLsbD 9 = s.scanComplete ∧
    (regCtrl s).extractLsb' 3 6 = s.bitCount ∧ (regCtrl s).getLsbD 2 = decide (s.phase = .falling) ∧
    (regCtrl s).getLsbD 1 = s.obsEn ∧ (regCtrl s).getLsbD 0 = decide (s.run = .running) ∧
    (s.Inv → (regIndex s).toNat = s.index)
end

