-- ==== Sys2Proof/Laws/Memory.lean ====
section
/-! SUPPORT. External memory: the canonical form is kept by every memory operation, a read after an update, and what a range read
gives. -/

namespace Sys2Proof.Machine

/-! ### The canonical form -/

/-- Rising from a higher bound is rising from a lower one. -/
theorem Memory.risesFrom_mono {lo lo' : Nat} (h : lo' ≤ lo) {m : Memory} (hm : Memory.risesFrom lo m = true) :
    Memory.risesFrom lo' m = true := by
  cases m with
  | nil => rfl
  | cons c m =>
    simp only [Memory.risesFrom, Bool.and_eq_true, decide_eq_true_eq] at hm ⊢
    exact ⟨⟨h.trans hm.1.1, hm.1.2⟩, hm.2⟩

/-- An update keeps the canonical form. -/
theorem Memory.risesFrom_update {lo a : Nat} (v : Option Byte) (hlo : lo ≤ a) (ha : a < Config.addressTop) :
    ∀ {m : Memory}, Memory.risesFrom lo m = true → Memory.risesFrom lo (Memory.update m a v) = true := by
  intro m
  induction m generalizing lo with
  | nil => intro _; cases v <;> simp [Memory.update, Memory.consCell, Memory.risesFrom, hlo, ha]
  | cons c m ih =>
    obtain ⟨x, b⟩ := c
    intro hm
    simp only [Memory.risesFrom, Bool.and_eq_true, decide_eq_true_eq] at hm
    obtain ⟨⟨hx, hxt⟩, hm⟩ := hm
    simp only [Memory.update]
    split
    · cases v with
      | none => simp [Memory.consCell, Memory.risesFrom, hx, hxt, hm]
      | some w =>
        simp only [Memory.consCell, Memory.risesFrom, Bool.and_eq_true, decide_eq_true_eq]
        exact ⟨⟨hlo, ha⟩, ⟨by omega, hxt⟩, hm⟩
    · split
      · subst_vars
        cases v with
        | none => exact Memory.risesFrom_mono (by omega) hm
        | some w =>
          simp only [Memory.consCell, Memory.risesFrom, Bool.and_eq_true, decide_eq_true_eq]
          exact ⟨⟨hlo, ha⟩, hm⟩
      · simp only [Memory.risesFrom, Bool.and_eq_true, decide_eq_true_eq]
        exact ⟨⟨hx, hxt⟩, ih (by omega) hm⟩

/-- Every host store keeps the canonical form. -/
theorem Memory.wf_update {m : Memory} (h : m.wf = true) (a : Word) (v : Option Byte) :
    Memory.wf (m.update a.toNat v) = true :=
  Memory.risesFrom_update v (Nat.zero_le _) (by simpa [Config.addressTop] using a.isLt) h

/-- The empty memory is canonical. -/
theorem Memory.wf_nil : Memory.wf [] = true := rfl

/-! ### Reads after an update -/

/-- Below a rising memory nothing is listed. -/
theorem Memory.lookup_below {a lo : Nat} (h : a < lo) : ∀ {m : Memory}, Memory.risesFrom lo m = true → m.lookup a = none := by
  intro m
  induction m generalizing lo with
  | nil => intro _; rfl
  | cons c m ih =>
    obtain ⟨x, b⟩ := c
    intro hm
    simp only [Memory.risesFrom, Bool.and_eq_true, decide_eq_true_eq] at hm
    have hx : x ≠ a := by omega
    simpa [Memory.lookup, hx] using ih (by omega) hm.2

/-- The updated address reads as the value stored. -/
theorem Memory.lookup_update_same {lo a : Nat} (v : Option Byte) :
    ∀ {m : Memory}, Memory.risesFrom lo m = true → (m.update a v).lookup a = v := by
  intro m
  induction m generalizing lo with
  | nil => intro _; cases v <;> simp [Memory.update, Memory.consCell, Memory.lookup]
  | cons c m ih =>
    obtain ⟨x, b⟩ := c
    intro hm
    have hm' := hm
    simp only [Memory.risesFrom, Bool.and_eq_true, decide_eq_true_eq] at hm
    simp only [Memory.update]
    split
    · rename_i hax
      cases v with
      | some w => simp [Memory.consCell, Memory.lookup]
      | none =>
        have hx : x ≠ a := by omega
        simpa [Memory.consCell, Memory.lookup, hx] using Memory.lookup_below (by omega) hm.2
    · split
      · subst_vars
        cases v with
        | some w => simp [Memory.consCell, Memory.lookup]
        | none => simpa [Memory.consCell] using Memory.lookup_below (Nat.lt_succ_self _) hm.2
      · rename_i h1 h2
        have hx : x ≠ a := by omega
        simpa [Memory.lookup, hx] using ih hm.2

/-- Every other address reads as before. -/
theorem Memory.lookup_update_other {a a' : Nat} (h : a' ≠ a) (v : Option Byte) (m : Memory) :
    (m.update a v).lookup a' = m.lookup a' := by
  induction m with
  | nil => cases v <;> simp [Memory.update, Memory.consCell, Memory.lookup, Ne.symm h]
  | cons c m ih =>
    obtain ⟨x, b⟩ := c
    simp only [Memory.update]
    split
    · cases v <;> simp [Memory.consCell, Memory.lookup, Ne.symm h]
    · split
      · subst_vars
        cases v <;> simp [Memory.consCell, Memory.lookup, Ne.symm h]
      · simp [Memory.lookup, ih]

/-! ### Range reads -/

/-- A range read sees the memory alone. -/
theorem memRead_congr {s t : State} (h : t.mem = s.mem) (a : Nat) : memRead t a = memRead s a := by
  simp [memRead, h]

/-- Two states that read alike on a range answer alike for it. -/
theorem readRange_congr {s t : State} : ∀ {n a : Nat}, (∀ k, k < n → memRead t (a + k) = memRead s (a + k)) →
    readRange t a n = readRange s a n := by
  intro n
  induction n with
  | zero => intro a _; rfl
  | succ n ih =>
    intro a h
    have h0 : memRead t a = memRead s a := by simpa using h 0 (by omega)
    have h1 : readRange t (a + 1) n = readRange s (a + 1) n :=
      ih fun k hk => by simpa [Nat.add_assoc, Nat.add_comm 1 k] using h (k + 1) (by omega)
    simp only [readRange, h0, h1]

/-- A range read that succeeds gives the bytes of the range, in order. -/
theorem readRange_ok {s : State} : ∀ {n a : Nat} {bs : List Byte}, readRange s a n = .ok bs →
    bs.length = n ∧ ∀ k, (h : k < bs.length) → memRead s (a + k) = some bs[k] := by
  intro n
  induction n with
  | zero => intro a bs h; simp only [readRange, Except.ok.injEq] at h; subst h; simp
  | succ n ih =>
    intro a bs h
    simp only [readRange] at h
    split at h
    · cases h
    · rename_i b hb
      split at h
      · cases h
      · rename_i rest hr
        cases h
        obtain ⟨hl, hk⟩ := ih hr
        refine ⟨by simp [hl], fun k hlt => ?_⟩
        cases k with
        | zero => simpa using hb
        | succ k => simpa [Nat.add_assoc, Nat.add_comm 1 k] using hk k (by simpa using hlt)

/-- A range read is stuck exactly where one of its bytes is not admitted, and at such an address. -/
theorem readRange_error {s : State} : ∀ {n a : Nat} {f : Fault}, readRange s a n = .error f →
    ∃ k, k < n ∧ memRead s (a + k) = none ∧ f = .stuckMem (a + k) := by
  intro n
  induction n with
  | zero => intro a f h; cases h
  | succ n ih =>
    intro a f h
    simp only [readRange] at h
    split at h
    · rename_i hb
      cases h
      exact ⟨0, by omega, by simpa using hb, rfl⟩
    · split at h
      · rename_i g hr
        cases h
        obtain ⟨k, hk, hn, rfl⟩ := ih hr
        exact ⟨k + 1, by omega, by simpa [Nat.add_assoc, Nat.add_comm 1 k] using hn, by simp [Nat.add_assoc, Nat.add_comm 1 k]⟩
      · cases h

/-- A range whose bytes are all admitted is read. -/
theorem readRange_total {s : State} {n a : Nat} (h : ∀ k, k < n → memRead s (a + k) ≠ none) :
    ∃ bs, readRange s a n = .ok bs := by
  cases hr : readRange s a n with
  | ok bs => exact ⟨bs, rfl⟩
  | error f =>
    obtain ⟨k, hk, hn, -⟩ := readRange_error hr
    exact absurd hn (h k hk)

/-- A range with a byte that is not admitted is stuck. -/
theorem readRange_stuck {s : State} {n a k : Nat} (hk : k < n) (hn : memRead s (a + k) = none) :
    ∃ x, readRange s a n = .error (.stuckMem x) := by
  cases hr : readRange s a n with
  | error f => obtain ⟨j, -, -, rfl⟩ := readRange_error hr; exact ⟨_, rfl⟩
  | ok bs =>
    obtain ⟨hl, hb⟩ := readRange_ok hr
    simp [hb k (by omega)] at hn

end Sys2Proof.Machine
end

