-- ==== Sys2Proof/Laws/Operands.lean ====
section
/-! SUPPORT. What the operand readings are as numbers and as bits: the mask is a remainder, the rising shift is doubling, and what a
masked word confines. -/

namespace Sys2Proof.Machine

/-! ### Channels -/

@[simp] theorem laneGet_all {α : Type} (x : α) (i : Channel) : laneGet (laneAll x) i = x := by
  fin_cases i <;> rfl

@[simp] theorem laneGet_map {α β : Type} (f : α → β) (v : Lanes α) (i : Channel) :
    laneGet (laneMap f v) i = f (laneGet v i) := by
  fin_cases i <;> rfl

@[simp] theorem laneGet_zip {α β γ : Type} (f : α → β → γ) (v : Lanes α) (w : Lanes β) (i : Channel) :
    laneGet (laneZip f v w) i = f (laneGet v i) (laneGet w i) := by
  fin_cases i <;> rfl

/-- A channel's entry after one channel's entry was replaced. -/
theorem laneGet_set {α : Type} (v : Lanes α) (i j : Channel) (x : α) :
    laneGet (laneSet v i x) j = if j = i then x else laneGet v j := by
  fin_cases i <;> fin_cases j <;> rfl

/-- Two triples with equal entries are equal. -/
theorem lanes_ext {α : Type} {v w : Lanes α} (h : ∀ i, laneGet v i = laneGet w i) : v = w := by
  cases v; cases w
  have h0 := h 0; have h1 := h 1; have h2 := h 2
  simp only [laneGet] at h0 h1 h2
  subst h0 h1 h2; rfl

/-! ### The mask -/

/-- `mask(L)` as a number (R13): all 32 bits once `L` reaches 32. -/
theorem mask_toNat (L : BitVec 6) : (mask L).toNat = 2 ^ min L.toNat 32 - 1 := by
  rw [mask, BitVec.toNat_ofNat]
  rcases Nat.le_total L.toNat 32 with h | h
  · rw [Nat.min_eq_left h]
    have h1 : (2 : Nat) ^ L.toNat ≤ 2 ^ 32 := Nat.pow_le_pow_right (by omega) h
    have h2 : 0 < (2 : Nat) ^ L.toNat := Nat.two_pow_pos _
    exact Nat.mod_eq_of_lt (by omega)
  · rw [Nat.min_eq_right h]
    obtain ⟨k, hk⟩ := Nat.exists_eq_add_of_le h
    rw [hk, Nat.pow_add]
    have h2 : 0 < (2 : Nat) ^ k := Nat.two_pow_pos _
    obtain ⟨m, hm⟩ := Nat.exists_eq_add_of_le h2
    rw [hm]
    omega

/-- Masking is the remainder by `2^L` (R150). -/
theorem maskTo_toNat (L : BitVec 6) (w : Word) : (maskTo L w).toNat = w.toNat % 2 ^ L.toNat := by
  rw [maskTo, BitVec.toNat_and, mask_toNat, Nat.and_two_pow_sub_one_eq_mod]
  rcases Nat.le_total L.toNat 32 with h | h
  · rw [Nat.min_eq_left h]
  · rw [Nat.min_eq_right h, Nat.mod_eq_of_lt w.isLt, Nat.mod_eq_of_lt (w.isLt.trans_le (Nat.pow_le_pow_right (by omega) h))]

/-- A bit of a masked word. -/
theorem maskTo_getLsbD (L : BitVec 6) (w : Word) (j : Nat) :
    (maskTo L w).getLsbD j = (decide (j < L.toNat) && w.getLsbD j) := by
  simp only [← BitVec.testBit_toNat, maskTo_toNat, Nat.testBit_mod_two_pow]

/-- A masked word is confined (R22). -/
@[simp] theorem confined_maskTo (L : BitVec 6) (w : Word) : confined L (maskTo L w) = true := by
  have h : maskTo L w &&& ~~~(mask L) = 0 := by rw [maskTo, BitVec.and_assoc]; simp
  simpa [confined] using h

/-- 0 is confined whatever the chain length (R100). -/
@[simp] theorem confined_zero (L : BitVec 6) : confined L 0#32 = true := by
  simp [confined]

/-- A confined word is below `2^L`. -/
theorem confined_toNat {L : BitVec 6} {w : Word} (h : confined L w = true) : w.toNat < 2 ^ L.toNat := by
  have hw : w = maskTo L w := by
    simp only [confined, decide_eq_true_eq] at h
    have hsplit : w = (w &&& mask L) ||| (w &&& ~~~(mask L)) := by
      rw [← BitVec.and_or_distrib_left, BitVec.or_not_self, BitVec.and_allOnes]
    rw [maskTo]
    conv_lhs => rw [hsplit, h]
    simp
  rw [hw, maskTo_toNat]
  exact Nat.mod_lt _ (Nat.two_pow_pos _)

/-! ### The rising shift -/

/-- The bits of a register after a rising shift (R141). -/
theorem shiftIn_getLsbD (L : BitVec 6) (w : Word) (d : Bool) (j : Nat) (hj : j < 32) :
    (shiftIn L w d).getLsbD j = (decide (j < L.toNat) && (if j = 0 then d else w.getLsbD (j - 1))) := by
  rw [shiftIn, maskTo_getLsbD]
  congr 1
  rw [BitVec.getLsbD_or, BitVec.getLsbD_shiftLeft, BitVec.getLsbD_setWidth, BitVec.getLsbD_ofBool]
  rcases Nat.eq_zero_or_pos j with rfl | h
  · simp
  · have h1 : j ≠ 0 := by omega
    have h2 : ¬ j < 1 := by omega
    simp [hj, h1, h2]

/-- A rising shift as a number: `(2 SR + d) mod 2^L` (R150). -/
theorem shiftIn_toNat {L : BitVec 6} (hL : L.toNat ≤ 32) (w : Word) (d : Bool) :
    (shiftIn L w d).toNat = (2 * w.toNat + d.toNat) % 2 ^ L.toNat := by
  refine Nat.eq_of_testBit_eq fun j => ?_
  rw [Nat.testBit_mod_two_pow, BitVec.testBit_toNat]
  rcases Nat.lt_or_ge j 32 with hj | hj
  · rw [shiftIn_getLsbD L w d j hj]
    congr 1
    cases j with
    | zero => cases d <;> simp [Nat.testBit_zero]
    | succ j =>
      have h2 : (2 * w.toNat + d.toNat) / 2 = w.toNat := by
        have := d.toNat_le
        omega
      simp [Nat.testBit_succ, h2, BitVec.testBit_toNat]
  · rw [BitVec.getLsbD_of_ge _ _ hj]
    simp [show ¬ j < L.toNat by omega]

/-! ### Other register values -/

/-- A chunk byte in a register, as a number (R162). -/
theorem byteWord_toNat (L : BitVec 6) (b : Byte) : (byteWord L b).toNat = b.toNat % 2 ^ L.toNat := by
  rw [byteWord, maskTo_toNat]
  congr 1

/-- The level a falling tick drives, through the register as a number (R143). -/
theorem topLevel_eq (L : BitVec 6) (w : Word) :
    topLevel L w = if w.toNat.testBit (L.toNat - 1) then .high else .low := by
  simp [topLevel, levelOf, BitVec.testBit_toNat]

/-! ### Operand readings -/

/-- The chain length CONFIGURE stores, as a number (R100). -/
theorem clampLength_toNat (len : Word) : (clampLength len).toNat = min len.toNat 32 := by
  rw [clampLength, BitVec.toNat_ofNat]
  exact Nat.mod_eq_of_lt (by simp only [Config.maxChain]; omega)

end Sys2Proof.Machine
end

