-- ==== Sys2Proof/Laws/State.lean ====
section
/-! SUPPORT. Each field after each named update of the state: the changed ones with their value, the others unchanged. -/

namespace Sys2Proof.Machine

/-! ### refuse -/

@[simp] theorem refuse_params (r : RefuseReason) (w : Word) (s : State) : (refuse r w s).params = s.params := rfl
@[simp] theorem refuse_lifecycle (r : RefuseReason) (w : Word) (s : State) : (refuse r w s).lifecycle = s.lifecycle := rfl
@[simp] theorem refuse_run (r : RefuseReason) (w : Word) (s : State) : (refuse r w s).run = s.run := rfl
@[simp] theorem refuse_phase (r : RefuseReason) (w : Word) (s : State) : (refuse r w s).phase = s.phase := rfl
@[simp] theorem refuse_bitCount (r : RefuseReason) (w : Word) (s : State) : (refuse r w s).bitCount = s.bitCount := rfl
@[simp] theorem refuse_scanComplete (r : RefuseReason) (w : Word) (s : State) : (refuse r w s).scanComplete = s.scanComplete := rfl
@[simp] theorem refuse_srcPtr (r : RefuseReason) (w : Word) (s : State) : (refuse r w s).srcPtr = s.srcPtr := rfl
@[simp] theorem refuse_remaining (r : RefuseReason) (w : Word) (s : State) : (refuse r w s).remaining = s.remaining := rfl
@[simp] theorem refuse_buf (r : RefuseReason) (w : Word) (s : State) : (refuse r w s).buf = s.buf := rfl
@[simp] theorem refuse_index (r : RefuseReason) (w : Word) (s : State) : (refuse r w s).index = s.index := rfl
@[simp] theorem refuse_empty (r : RefuseReason) (w : Word) (s : State) : (refuse r w s).empty = s.empty := rfl
@[simp] theorem refuse_obsEn (r : RefuseReason) (w : Word) (s : State) : (refuse r w s).obsEn = s.obsEn := rfl
@[simp] theorem refuse_sr (r : RefuseReason) (w : Word) (s : State) : (refuse r w s).sr = s.sr := rfl
@[simp] theorem refuse_clk (r : RefuseReason) (w : Word) (s : State) : (refuse r w s).clk = s.clk := rfl
@[simp] theorem refuse_dout (r : RefuseReason) (w : Word) (s : State) : (refuse r w s).dout = s.dout := rfl
@[simp] theorem refuse_enN (r : RefuseReason) (w : Word) (s : State) : (refuse r w s).enN = s.enN := rfl
@[simp] theorem refuse_refused (r : RefuseReason) (w : Word) (s : State) : (refuse r w s).refused = true := rfl
@[simp] theorem refuse_refusalLog (r : RefuseReason) (w : Word) (s : State) : (refuse r w s).refusalLog = s.refusalLog ++ [{ reason := r, info := w }] := rfl
@[simp] theorem refuse_history (r : RefuseReason) (w : Word) (s : State) : (refuse r w s).history = s.history := rfl
@[simp] theorem refuse_mem (r : RefuseReason) (w : Word) (s : State) : (refuse r w s).mem = s.mem := rfl
@[simp] theorem refuse_inputs (r : RefuseReason) (w : Word) (s : State) : (refuse r w s).inputs = s.inputs := rfl

/-! ### respond -/

@[simp] theorem respond_params (ws : List Word) (s : State) : (respond ws s).params = s.params := rfl
@[simp] theorem respond_lifecycle (ws : List Word) (s : State) : (respond ws s).lifecycle = s.lifecycle := rfl
@[simp] theorem respond_run (ws : List Word) (s : State) : (respond ws s).run = s.run := rfl
@[simp] theorem respond_phase (ws : List Word) (s : State) : (respond ws s).phase = s.phase := rfl
@[simp] theorem respond_bitCount (ws : List Word) (s : State) : (respond ws s).bitCount = s.bitCount := rfl
@[simp] theorem respond_scanComplete (ws : List Word) (s : State) : (respond ws s).scanComplete = s.scanComplete := rfl
@[simp] theorem respond_srcPtr (ws : List Word) (s : State) : (respond ws s).srcPtr = s.srcPtr := rfl
@[simp] theorem respond_remaining (ws : List Word) (s : State) : (respond ws s).remaining = s.remaining := rfl
@[simp] theorem respond_buf (ws : List Word) (s : State) : (respond ws s).buf = s.buf := rfl
@[simp] theorem respond_index (ws : List Word) (s : State) : (respond ws s).index = s.index := rfl
@[simp] theorem respond_empty (ws : List Word) (s : State) : (respond ws s).empty = s.empty := rfl
@[simp] theorem respond_obsEn (ws : List Word) (s : State) : (respond ws s).obsEn = s.obsEn := rfl
@[simp] theorem respond_sr (ws : List Word) (s : State) : (respond ws s).sr = s.sr := rfl
@[simp] theorem respond_clk (ws : List Word) (s : State) : (respond ws s).clk = s.clk := rfl
@[simp] theorem respond_dout (ws : List Word) (s : State) : (respond ws s).dout = s.dout := rfl
@[simp] theorem respond_enN (ws : List Word) (s : State) : (respond ws s).enN = s.enN := rfl
@[simp] theorem respond_refused (ws : List Word) (s : State) : (respond ws s).refused = s.refused := rfl
@[simp] theorem respond_refusalLog (ws : List Word) (s : State) : (respond ws s).refusalLog = s.refusalLog := rfl
@[simp] theorem respond_history (ws : List Word) (s : State) : (respond ws s).history = s.history ++ [.response ws] := rfl
@[simp] theorem respond_mem (ws : List Word) (s : State) : (respond ws s).mem = s.mem := rfl
@[simp] theorem respond_inputs (ws : List Word) (s : State) : (respond ws s).inputs = s.inputs := rfl

/-! ### recordPorts -/

@[simp] theorem recordPorts_params (s : State) : (recordPorts s).params = s.params := rfl
@[simp] theorem recordPorts_lifecycle (s : State) : (recordPorts s).lifecycle = s.lifecycle := rfl
@[simp] theorem recordPorts_run (s : State) : (recordPorts s).run = s.run := rfl
@[simp] theorem recordPorts_phase (s : State) : (recordPorts s).phase = s.phase := rfl
@[simp] theorem recordPorts_bitCount (s : State) : (recordPorts s).bitCount = s.bitCount := rfl
@[simp] theorem recordPorts_scanComplete (s : State) : (recordPorts s).scanComplete = s.scanComplete := rfl
@[simp] theorem recordPorts_srcPtr (s : State) : (recordPorts s).srcPtr = s.srcPtr := rfl
@[simp] theorem recordPorts_remaining (s : State) : (recordPorts s).remaining = s.remaining := rfl
@[simp] theorem recordPorts_buf (s : State) : (recordPorts s).buf = s.buf := rfl
@[simp] theorem recordPorts_index (s : State) : (recordPorts s).index = s.index := rfl
@[simp] theorem recordPorts_empty (s : State) : (recordPorts s).empty = s.empty := rfl
@[simp] theorem recordPorts_obsEn (s : State) : (recordPorts s).obsEn = s.obsEn := rfl
@[simp] theorem recordPorts_sr (s : State) : (recordPorts s).sr = s.sr := rfl
@[simp] theorem recordPorts_clk (s : State) : (recordPorts s).clk = s.clk := rfl
@[simp] theorem recordPorts_dout (s : State) : (recordPorts s).dout = s.dout := rfl
@[simp] theorem recordPorts_enN (s : State) : (recordPorts s).enN = s.enN := rfl
@[simp] theorem recordPorts_refused (s : State) : (recordPorts s).refused = s.refused := rfl
@[simp] theorem recordPorts_refusalLog (s : State) : (recordPorts s).refusalLog = s.refusalLog := rfl
@[simp] theorem recordPorts_history (s : State) : (recordPorts s).history = s.history ++ [.ports s.clk s.dout s.enN] := rfl
@[simp] theorem recordPorts_mem (s : State) : (recordPorts s).mem = s.mem := rfl
@[simp] theorem recordPorts_inputs (s : State) : (recordPorts s).inputs = s.inputs := rfl

/-! ### presentWords -/

@[simp] theorem presentWords_params (ws : List Word) (s : State) : (presentWords ws s).params = s.params := rfl
@[simp] theorem presentWords_lifecycle (ws : List Word) (s : State) : (presentWords ws s).lifecycle = s.lifecycle := rfl
@[simp] theorem presentWords_run (ws : List Word) (s : State) : (presentWords ws s).run = s.run := rfl
@[simp] theorem presentWords_phase (ws : List Word) (s : State) : (presentWords ws s).phase = s.phase := rfl
@[simp] theorem presentWords_bitCount (ws : List Word) (s : State) : (presentWords ws s).bitCount = s.bitCount := rfl
@[simp] theorem presentWords_scanComplete (ws : List Word) (s : State) : (presentWords ws s).scanComplete = s.scanComplete := rfl
@[simp] theorem presentWords_srcPtr (ws : List Word) (s : State) : (presentWords ws s).srcPtr = s.srcPtr := rfl
@[simp] theorem presentWords_remaining (ws : List Word) (s : State) : (presentWords ws s).remaining = s.remaining := rfl
@[simp] theorem presentWords_buf (ws : List Word) (s : State) : (presentWords ws s).buf = s.buf := rfl
@[simp] theorem presentWords_index (ws : List Word) (s : State) : (presentWords ws s).index = s.index := rfl
@[simp] theorem presentWords_empty (ws : List Word) (s : State) : (presentWords ws s).empty = s.empty := rfl
@[simp] theorem presentWords_obsEn (ws : List Word) (s : State) : (presentWords ws s).obsEn = s.obsEn := rfl
@[simp] theorem presentWords_sr (ws : List Word) (s : State) : (presentWords ws s).sr = s.sr := rfl
@[simp] theorem presentWords_clk (ws : List Word) (s : State) : (presentWords ws s).clk = s.clk := rfl
@[simp] theorem presentWords_dout (ws : List Word) (s : State) : (presentWords ws s).dout = s.dout := rfl
@[simp] theorem presentWords_enN (ws : List Word) (s : State) : (presentWords ws s).enN = s.enN := rfl
@[simp] theorem presentWords_refused (ws : List Word) (s : State) : (presentWords ws s).refused = s.refused := rfl
@[simp] theorem presentWords_refusalLog (ws : List Word) (s : State) : (presentWords ws s).refusalLog = s.refusalLog := rfl
@[simp] theorem presentWords_history (ws : List Word) (s : State) : (presentWords ws s).history = s.history := rfl
@[simp] theorem presentWords_mem (ws : List Word) (s : State) : (presentWords ws s).mem = s.mem := rfl
@[simp] theorem presentWords_inputs (ws : List Word) (s : State) : (presentWords ws s).inputs = pushBack ws s.inputs := rfl

/-! ### risingTick -/

@[simp] theorem risingTick_params (L : BitVec 6) (d : Lanes Bool) (s : State) : (risingTick L d s).params = s.params := rfl
@[simp] theorem risingTick_lifecycle (L : BitVec 6) (d : Lanes Bool) (s : State) : (risingTick L d s).lifecycle = s.lifecycle := rfl
@[simp] theorem risingTick_run (L : BitVec 6) (d : Lanes Bool) (s : State) : (risingTick L d s).run = s.run := rfl
@[simp] theorem risingTick_phase (L : BitVec 6) (d : Lanes Bool) (s : State) : (risingTick L d s).phase = .falling := rfl
@[simp] theorem risingTick_bitCount (L : BitVec 6) (d : Lanes Bool) (s : State) : (risingTick L d s).bitCount = s.bitCount + 1 := rfl
@[simp] theorem risingTick_scanComplete (L : BitVec 6) (d : Lanes Bool) (s : State) : (risingTick L d s).scanComplete = scanAfterRising s.params s.scanComplete := rfl
@[simp] theorem risingTick_srcPtr (L : BitVec 6) (d : Lanes Bool) (s : State) : (risingTick L d s).srcPtr = s.srcPtr := rfl
@[simp] theorem risingTick_remaining (L : BitVec 6) (d : Lanes Bool) (s : State) : (risingTick L d s).remaining = s.remaining := rfl
@[simp] theorem risingTick_buf (L : BitVec 6) (d : Lanes Bool) (s : State) : (risingTick L d s).buf = s.buf := rfl
@[simp] theorem risingTick_index (L : BitVec 6) (d : Lanes Bool) (s : State) : (risingTick L d s).index = s.index := rfl
@[simp] theorem risingTick_empty (L : BitVec 6) (d : Lanes Bool) (s : State) : (risingTick L d s).empty = s.empty := rfl
@[simp] theorem risingTick_obsEn (L : BitVec 6) (d : Lanes Bool) (s : State) : (risingTick L d s).obsEn = s.obsEn := rfl
@[simp] theorem risingTick_sr (L : BitVec 6) (d : Lanes Bool) (s : State) : (risingTick L d s).sr = laneZip (shiftIn L) s.sr d := rfl
@[simp] theorem risingTick_clk (L : BitVec 6) (d : Lanes Bool) (s : State) : (risingTick L d s).clk = .high := rfl
@[simp] theorem risingTick_dout (L : BitVec 6) (d : Lanes Bool) (s : State) : (risingTick L d s).dout = s.dout := rfl
@[simp] theorem risingTick_enN (L : BitVec 6) (d : Lanes Bool) (s : State) : (risingTick L d s).enN = s.enN := rfl
@[simp] theorem risingTick_refused (L : BitVec 6) (d : Lanes Bool) (s : State) : (risingTick L d s).refused = s.refused := rfl
@[simp] theorem risingTick_refusalLog (L : BitVec 6) (d : Lanes Bool) (s : State) : (risingTick L d s).refusalLog = s.refusalLog := rfl
@[simp] theorem risingTick_history (L : BitVec 6) (d : Lanes Bool) (s : State) : (risingTick L d s).history = s.history := rfl
@[simp] theorem risingTick_mem (L : BitVec 6) (d : Lanes Bool) (s : State) : (risingTick L d s).mem = s.mem := rfl
@[simp] theorem risingTick_inputs (L : BitVec 6) (d : Lanes Bool) (s : State) : (risingTick L d s).inputs = s.inputs := rfl

/-! ### driveFalling -/

@[simp] theorem driveFalling_params (L : BitVec 6) (s : State) : (driveFalling L s).params = s.params := rfl
@[simp] theorem driveFalling_lifecycle (L : BitVec 6) (s : State) : (driveFalling L s).lifecycle = s.lifecycle := rfl
@[simp] theorem driveFalling_run (L : BitVec 6) (s : State) : (driveFalling L s).run = s.run := rfl
@[simp] theorem driveFalling_phase (L : BitVec 6) (s : State) : (driveFalling L s).phase = .rising := rfl
@[simp] theorem driveFalling_bitCount (L : BitVec 6) (s : State) : (driveFalling L s).bitCount = s.bitCount := rfl
@[simp] theorem driveFalling_scanComplete (L : BitVec 6) (s : State) : (driveFalling L s).scanComplete = s.scanComplete := rfl
@[simp] theorem driveFalling_srcPtr (L : BitVec 6) (s : State) : (driveFalling L s).srcPtr = s.srcPtr := rfl
@[simp] theorem driveFalling_remaining (L : BitVec 6) (s : State) : (driveFalling L s).remaining = s.remaining := rfl
@[simp] theorem driveFalling_buf (L : BitVec 6) (s : State) : (driveFalling L s).buf = s.buf := rfl
@[simp] theorem driveFalling_index (L : BitVec 6) (s : State) : (driveFalling L s).index = s.index := rfl
@[simp] theorem driveFalling_empty (L : BitVec 6) (s : State) : (driveFalling L s).empty = s.empty := rfl
@[simp] theorem driveFalling_obsEn (L : BitVec 6) (s : State) : (driveFalling L s).obsEn = s.obsEn := rfl
@[simp] theorem driveFalling_sr (L : BitVec 6) (s : State) : (driveFalling L s).sr = s.sr := rfl
@[simp] theorem driveFalling_clk (L : BitVec 6) (s : State) : (driveFalling L s).clk = .low := rfl
@[simp] theorem driveFalling_dout (L : BitVec 6) (s : State) : (driveFalling L s).dout = laneMap (topLevel L) s.sr := rfl
@[simp] theorem driveFalling_enN (L : BitVec 6) (s : State) : (driveFalling L s).enN = s.enN := rfl
@[simp] theorem driveFalling_refused (L : BitVec 6) (s : State) : (driveFalling L s).refused = s.refused := rfl
@[simp] theorem driveFalling_refusalLog (L : BitVec 6) (s : State) : (driveFalling L s).refusalLog = s.refusalLog := rfl
@[simp] theorem driveFalling_history (L : BitVec 6) (s : State) : (driveFalling L s).history = s.history := rfl
@[simp] theorem driveFalling_mem (L : BitVec 6) (s : State) : (driveFalling L s).mem = s.mem := rfl
@[simp] theorem driveFalling_inputs (L : BitVec 6) (s : State) : (driveFalling L s).inputs = s.inputs := rfl

/-! ### completeWord -/

@[simp] theorem completeWord_params (s : State) : (completeWord s).params = s.params := rfl
@[simp] theorem completeWord_lifecycle (s : State) : (completeWord s).lifecycle = s.lifecycle := rfl
@[simp] theorem completeWord_run (s : State) : (completeWord s).run = s.run := rfl
@[simp] theorem completeWord_phase (s : State) : (completeWord s).phase = s.phase := rfl
@[simp] theorem completeWord_bitCount (s : State) : (completeWord s).bitCount = 0 := rfl
@[simp] theorem completeWord_scanComplete (s : State) : (completeWord s).scanComplete = true := rfl
@[simp] theorem completeWord_srcPtr (s : State) : (completeWord s).srcPtr = s.srcPtr := rfl
@[simp] theorem completeWord_remaining (s : State) : (completeWord s).remaining = s.remaining := rfl
@[simp] theorem completeWord_buf (s : State) : (completeWord s).buf = s.buf := rfl
@[simp] theorem completeWord_index (s : State) : (completeWord s).index = s.index := rfl
@[simp] theorem completeWord_empty (s : State) : (completeWord s).empty = s.empty := rfl
@[simp] theorem completeWord_obsEn (s : State) : (completeWord s).obsEn = s.obsEn := rfl
@[simp] theorem completeWord_sr (s : State) : (completeWord s).sr = s.sr := rfl
@[simp] theorem completeWord_clk (s : State) : (completeWord s).clk = s.clk := rfl
@[simp] theorem completeWord_dout (s : State) : (completeWord s).dout = s.dout := rfl
@[simp] theorem completeWord_enN (s : State) : (completeWord s).enN = s.enN := rfl
@[simp] theorem completeWord_refused (s : State) : (completeWord s).refused = s.refused := rfl
@[simp] theorem completeWord_refusalLog (s : State) : (completeWord s).refusalLog = s.refusalLog := rfl
@[simp] theorem completeWord_history (s : State) : (completeWord s).history = s.history := rfl
@[simp] theorem completeWord_mem (s : State) : (completeWord s).mem = s.mem := rfl
@[simp] theorem completeWord_inputs (s : State) : (completeWord s).inputs = s.inputs := rfl

/-! ### notifyObserver -/

@[simp] theorem notifyObserver_params (s : State) : (notifyObserver s).params = s.params := by unfold notifyObserver; split <;> rfl
@[simp] theorem notifyObserver_lifecycle (s : State) : (notifyObserver s).lifecycle = s.lifecycle := by unfold notifyObserver; split <;> rfl
@[simp] theorem notifyObserver_run (s : State) : (notifyObserver s).run = s.run := by unfold notifyObserver; split <;> rfl
@[simp] theorem notifyObserver_phase (s : State) : (notifyObserver s).phase = s.phase := by unfold notifyObserver; split <;> rfl
@[simp] theorem notifyObserver_bitCount (s : State) : (notifyObserver s).bitCount = s.bitCount := by unfold notifyObserver; split <;> rfl
@[simp] theorem notifyObserver_scanComplete (s : State) : (notifyObserver s).scanComplete = s.scanComplete := by unfold notifyObserver; split <;> rfl
@[simp] theorem notifyObserver_srcPtr (s : State) : (notifyObserver s).srcPtr = s.srcPtr := by unfold notifyObserver; split <;> rfl
@[simp] theorem notifyObserver_remaining (s : State) : (notifyObserver s).remaining = s.remaining := by unfold notifyObserver; split <;> rfl
@[simp] theorem notifyObserver_buf (s : State) : (notifyObserver s).buf = s.buf := by unfold notifyObserver; split <;> rfl
@[simp] theorem notifyObserver_index (s : State) : (notifyObserver s).index = s.index := by unfold notifyObserver; split <;> rfl
@[simp] theorem notifyObserver_empty (s : State) : (notifyObserver s).empty = s.empty := by unfold notifyObserver; split <;> rfl
@[simp] theorem notifyObserver_obsEn (s : State) : (notifyObserver s).obsEn = s.obsEn := by unfold notifyObserver; split <;> rfl
@[simp] theorem notifyObserver_sr (s : State) : (notifyObserver s).sr = s.sr := by unfold notifyObserver; split <;> rfl
@[simp] theorem notifyObserver_clk (s : State) : (notifyObserver s).clk = s.clk := by unfold notifyObserver; split <;> rfl
@[simp] theorem notifyObserver_dout (s : State) : (notifyObserver s).dout = s.dout := by unfold notifyObserver; split <;> rfl
@[simp] theorem notifyObserver_enN (s : State) : (notifyObserver s).enN = s.enN := by unfold notifyObserver; split <;> rfl
@[simp] theorem notifyObserver_refused (s : State) : (notifyObserver s).refused = s.refused := by unfold notifyObserver; split <;> rfl
@[simp] theorem notifyObserver_refusalLog (s : State) : (notifyObserver s).refusalLog = s.refusalLog := by unfold notifyObserver; split <;> rfl
@[simp] theorem notifyObserver_mem (s : State) : (notifyObserver s).mem = s.mem := by unfold notifyObserver; split <;> rfl
@[simp] theorem notifyObserver_inputs (s : State) : (notifyObserver s).inputs = s.inputs := by unfold notifyObserver; split <;> rfl
theorem notifyObserver_history (s : State) :
    (notifyObserver s).history = s.history ++ (if s.obsEn then [.chunkBoundary] else []) := by
  unfold notifyObserver; split <;> simp_all

/-! ### loadChannel: what it never changes -/

@[simp] theorem loadChannel_params (L : BitVec 6) (s : State) (i : Channel) : (loadChannel L s i).params = s.params := by unfold loadChannel; split <;> rfl
@[simp] theorem loadChannel_lifecycle (L : BitVec 6) (s : State) (i : Channel) : (loadChannel L s i).lifecycle = s.lifecycle := by unfold loadChannel; split <;> rfl
@[simp] theorem loadChannel_run (L : BitVec 6) (s : State) (i : Channel) : (loadChannel L s i).run = s.run := by unfold loadChannel; split <;> rfl
@[simp] theorem loadChannel_phase (L : BitVec 6) (s : State) (i : Channel) : (loadChannel L s i).phase = s.phase := by unfold loadChannel; split <;> rfl
@[simp] theorem loadChannel_bitCount (L : BitVec 6) (s : State) (i : Channel) : (loadChannel L s i).bitCount = s.bitCount := by unfold loadChannel; split <;> rfl
@[simp] theorem loadChannel_scanComplete (L : BitVec 6) (s : State) (i : Channel) : (loadChannel L s i).scanComplete = s.scanComplete := by unfold loadChannel; split <;> rfl
@[simp] theorem loadChannel_srcPtr (L : BitVec 6) (s : State) (i : Channel) : (loadChannel L s i).srcPtr = s.srcPtr := by unfold loadChannel; split <;> rfl
@[simp] theorem loadChannel_remaining (L : BitVec 6) (s : State) (i : Channel) : (loadChannel L s i).remaining = s.remaining := by unfold loadChannel; split <;> rfl
@[simp] theorem loadChannel_buf (L : BitVec 6) (s : State) (i : Channel) : (loadChannel L s i).buf = s.buf := by unfold loadChannel; split <;> rfl
@[simp] theorem loadChannel_empty (L : BitVec 6) (s : State) (i : Channel) : (loadChannel L s i).empty = s.empty := by unfold loadChannel; split <;> rfl
@[simp] theorem loadChannel_obsEn (L : BitVec 6) (s : State) (i : Channel) : (loadChannel L s i).obsEn = s.obsEn := by unfold loadChannel; split <;> rfl
@[simp] theorem loadChannel_clk (L : BitVec 6) (s : State) (i : Channel) : (loadChannel L s i).clk = s.clk := by unfold loadChannel; split <;> rfl
@[simp] theorem loadChannel_dout (L : BitVec 6) (s : State) (i : Channel) : (loadChannel L s i).dout = s.dout := by unfold loadChannel; split <;> rfl
@[simp] theorem loadChannel_enN (L : BitVec 6) (s : State) (i : Channel) : (loadChannel L s i).enN = s.enN := by unfold loadChannel; split <;> rfl
@[simp] theorem loadChannel_refused (L : BitVec 6) (s : State) (i : Channel) : (loadChannel L s i).refused = s.refused := by unfold loadChannel; split <;> rfl
@[simp] theorem loadChannel_refusalLog (L : BitVec 6) (s : State) (i : Channel) : (loadChannel L s i).refusalLog = s.refusalLog := by unfold loadChannel; split <;> rfl
@[simp] theorem loadChannel_history (L : BitVec 6) (s : State) (i : Channel) : (loadChannel L s i).history = s.history := by unfold loadChannel; split <;> rfl
@[simp] theorem loadChannel_mem (L : BitVec 6) (s : State) (i : Channel) : (loadChannel L s i).mem = s.mem := by unfold loadChannel; split <;> rfl
@[simp] theorem loadChannel_inputs (L : BitVec 6) (s : State) (i : Channel) : (loadChannel L s i).inputs = s.inputs := by unfold loadChannel; split <;> rfl

/-! ### loadChannels: what it never changes -/

@[simp] theorem loadChannels_params (L : BitVec 6) (s : State) : (loadChannels L s).params = s.params := by simp [loadChannels]
@[simp] theorem loadChannels_lifecycle (L : BitVec 6) (s : State) : (loadChannels L s).lifecycle = s.lifecycle := by simp [loadChannels]
@[simp] theorem loadChannels_run (L : BitVec 6) (s : State) : (loadChannels L s).run = s.run := by simp [loadChannels]
@[simp] theorem loadChannels_phase (L : BitVec 6) (s : State) : (loadChannels L s).phase = s.phase := by simp [loadChannels]
@[simp] theorem loadChannels_bitCount (L : BitVec 6) (s : State) : (loadChannels L s).bitCount = s.bitCount := by simp [loadChannels]
@[simp] theorem loadChannels_scanComplete (L : BitVec 6) (s : State) : (loadChannels L s).scanComplete = s.scanComplete := by simp [loadChannels]
@[simp] theorem loadChannels_srcPtr (L : BitVec 6) (s : State) : (loadChannels L s).srcPtr = s.srcPtr := by simp [loadChannels]
@[simp] theorem loadChannels_remaining (L : BitVec 6) (s : State) : (loadChannels L s).remaining = s.remaining := by simp [loadChannels]
@[simp] theorem loadChannels_buf (L : BitVec 6) (s : State) : (loadChannels L s).buf = s.buf := by simp [loadChannels]
@[simp] theorem loadChannels_empty (L : BitVec 6) (s : State) : (loadChannels L s).empty = s.empty := by simp [loadChannels]
@[simp] theorem loadChannels_obsEn (L : BitVec 6) (s : State) : (loadChannels L s).obsEn = s.obsEn := by simp [loadChannels]
@[simp] theorem loadChannels_clk (L : BitVec 6) (s : State) : (loadChannels L s).clk = s.clk := by simp [loadChannels]
@[simp] theorem loadChannels_dout (L : BitVec 6) (s : State) : (loadChannels L s).dout = s.dout := by simp [loadChannels]
@[simp] theorem loadChannels_enN (L : BitVec 6) (s : State) : (loadChannels L s).enN = s.enN := by simp [loadChannels]
@[simp] theorem loadChannels_refused (L : BitVec 6) (s : State) : (loadChannels L s).refused = s.refused := by simp [loadChannels]
@[simp] theorem loadChannels_refusalLog (L : BitVec 6) (s : State) : (loadChannels L s).refusalLog = s.refusalLog := by simp [loadChannels]
@[simp] theorem loadChannels_history (L : BitVec 6) (s : State) : (loadChannels L s).history = s.history := by simp [loadChannels]
@[simp] theorem loadChannels_mem (L : BitVec 6) (s : State) : (loadChannels L s).mem = s.mem := by simp [loadChannels]
@[simp] theorem loadChannels_inputs (L : BitVec 6) (s : State) : (loadChannels L s).inputs = s.inputs := by simp [loadChannels]

/-! ### chainLength, cfgState and period read the lifecycle alone -/

theorem chainLength_congr {s t : State} (h : t.lifecycle = s.lifecycle) : t.chainLength = s.chainLength := by
  simp [State.chainLength, h]

theorem period_congr {s t : State} (h : t.lifecycle = s.lifecycle) : t.period = s.period := by
  simp [State.period, h]

theorem cfgState_congr {s t : State} (h : t.lifecycle = s.lifecycle) : t.cfgState = s.cfgState := by
  simp [State.cfgState, h]

/-- A chain length exists exactly outside Unconfigured. -/
theorem chainLength_eq_none_iff (s : State) : s.chainLength = none ↔ s.lifecycle = .unconfigured := by
  unfold State.chainLength; split <;> simp_all

end Sys2Proof.Machine
end

