-- ==== Sys2Proof/Laws/Ops.lean ====
section
/-! SUPPORT. What each shared operation can do, said once: the configuration gate, the fill, the channel loads, the drain, the
advancement, the two halves of a tick, and a step. -/

namespace Sys2Proof.Machine

/-! ### Ranges -/

/-- The range check of LOAD_DATA and VERIFY as an inequality (R63). -/
theorem rangeFits_iff (a n : Nat) : rangeFits a n = true ↔ a + n ≤ 2 ^ 32 := by
  rw [rangeFits, decide_eq_true_eq]; rfl

/-! ### The configuration gate -/

/-- The gate on a configured bank. -/
theorem whenConfigured_some {i : Instr} {s : State} {body : BitVec 6 → Answer} {L : BitVec 6} (h : s.chainLength = some L) :
    whenConfigured i s body = body L := by
  simp [whenConfigured, h]

/-- The gate on an unconfigured bank. -/
theorem whenConfigured_none {i : Instr} {s : State} {body : BitVec 6 → Answer} (h : s.chainLength = none) :
    whenConfigured i s body = .next (refuse .notConfigured i.header s) := by
  simp [whenConfigured, h]

/-- A gated command that answers a next state was refused, or its body answered it. -/
theorem whenConfigured_next {i : Instr} {s t : State} {body : BitVec 6 → Answer} (h : whenConfigured i s body = .next t) :
    (s.chainLength = none ∧ t = refuse .notConfigured i.header s) ∨ ∃ L, s.chainLength = some L ∧ body L = .next t := by
  unfold whenConfigured at h
  split at h
  · rename_i hn; cases h; exact .inl ⟨hn, rfl⟩
  · rename_i L hs; exact .inr ⟨L, hs, h⟩

/-! ### The fill -/

/-- A fill that succeeds: the bytes it read, and the whole state it leaves (R124). -/
theorem fill_ok {s t : State} (h : fill s = .ok t) : ∃ bytes : List Byte,
    readRange s s.srcPtr.toNat (fillLength s) = .ok bytes ∧
    t = { s with
      buf := bytes ++ s.buf.drop (fillLength s)
      srcPtr := s.srcPtr + BitVec.ofNat 32 (fillLength s)
      remaining := s.remaining - BitVec.ofNat 32 (fillLength s)
      index := 0
      empty := false } := by
  unfold fill at h
  split at h
  · cases h
  · rename_i bytes hb; cases h; exact ⟨bytes, hb, rfl⟩

/-- A fill that is stuck: a byte of its range is not admitted (R127). -/
theorem fill_error {s : State} {f : Fault} (h : fill s = .error f) :
    ∃ k, k < fillLength s ∧ memRead s (s.srcPtr.toNat + k) = none ∧ f = .stuckMem (s.srcPtr.toNat + k) := by
  unfold fill at h
  split at h
  · rename_i g hg; cases h; exact readRange_error hg
  · cases h

/-- A fill whose bytes are all admitted succeeds. -/
theorem fill_total {s : State} (h : ∀ k, k < fillLength s → memRead s (s.srcPtr.toNat + k) ≠ none) : ∃ t, fill s = .ok t := by
  obtain ⟨bytes, hb⟩ := readRange_total h
  exact ⟨_, by unfold fill; rw [hb]⟩

/-- A fill with a byte that is not admitted is stuck. -/
theorem fill_stuck {s : State} {k : Nat} (hk : k < fillLength s) (hn : memRead s (s.srcPtr.toNat + k) = none) :
    ∃ a, fill s = .error (.stuckMem a) := by
  obtain ⟨a, ha⟩ := readRange_stuck hk hn
  exact ⟨a, by unfold fill; rw [ha]⟩

theorem fillLength_le_remaining (s : State) : fillLength s ≤ s.remaining.toNat := Nat.min_le_left _ _

theorem fillLength_le_capacity (s : State) : fillLength s ≤ s.params.capacity := Nat.min_le_right _ _

/-- The buffer after bytes were put in front of its tail: the bytes below their number, the old content above (R125). -/
theorem bufAt_after_fill {s t : State} {bytes : List Byte} {n : Nat} (hn : bytes.length = n)
    (h : t.buf = bytes ++ s.buf.drop n) (k : Nat) :
    bufAt t k = if hk : k < bytes.length then bytes[k] else bufAt s k := by
  simp only [bufAt, h, List.getD_eq_getElem?_getD, List.getElem?_append, List.getElem?_drop]
  split
  · rename_i hk; simp [hk]
  · rename_i hk
    rw [show n + (k - bytes.length) = k by omega]

/-- A buffer position is read from the buffer's bytes alone. -/
theorem bufAt_congr {s t : State} (h : t.buf = s.buf) (k : Nat) : bufAt t k = bufAt s k := by
  simp [bufAt, h]

/-! ### The channel loads -/

/-- The read index after the three channels had their turn (R161). -/
theorem loadChannels_index {L : BitVec 6} {s : State} (h : s.index ≤ s.params.capacity) :
    (loadChannels L s).index = min (s.index + 3) s.params.capacity := by
  simp only [loadChannels, loadChannel, hasUnread, decide_eq_true_eq]
  split_ifs <;> simp_all <;> omega

/-- Channel `i` takes the `i`-th next byte if there is one, and otherwise keeps its register (R161, R162, R168). -/
theorem loadChannels_sr (L : BitVec 6) (s : State) (i : Channel) :
    laneGet (loadChannels L s).sr i =
      if s.index + i.val < s.params.capacity then byteWord L (bufAt s (s.index + i.val)) else laneGet s.sr i := by
  simp only [loadChannels, loadChannel, hasUnread, decide_eq_true_eq, bufAt]
  fin_cases i <;> split_ifs <;> simp_all [laneGet, laneSet] <;> omega

/-- The channel loads change the registers and the read index alone (R172). -/
theorem loadChannels_eq (L : BitVec 6) (s : State) :
    loadChannels L s = { s with sr := (loadChannels L s).sr, index := (loadChannels L s).index } := by
  simp only [loadChannels, loadChannel]
  split_ifs <;> rfl

/-! ### Drain and advancement -/

theorem drain_of_last {s : State} (h : s.remaining = 0) : drain s = .ok (notifyObserver { s with empty := true }) := by
  unfold drain; rw [if_pos h]

theorem drain_of_refill {s u : State} (h : s.remaining ≠ 0) (hu : fill { s with empty := true } = .ok u) :
    drain s = .ok (notifyObserver u) := by
  unfold drain; rw [if_neg h, hu]

theorem drain_of_stuck {s : State} {f : Fault} (h : s.remaining ≠ 0) (hf : fill { s with empty := true } = .error f) :
    drain s = .error f := by
  unfold drain; rw [if_neg h, hf]

theorem advance_of_empty {L : BitVec 6} {s : State} (he : s.empty = true) : advance L s = .ok s := by
  unfold advance; rw [if_pos he]

theorem advance_of_loaded {L : BitVec 6} {s : State} (he : s.empty = false) (h : (loadChannels L s).index ≠ s.params.capacity) :
    advance L s = .ok (loadChannels L s) := by
  unfold advance; rw [if_neg (by simp [he]), if_neg (by simpa [drained] using h)]

theorem advance_of_drained {L : BitVec 6} {s : State} (he : s.empty = false) (h : (loadChannels L s).index = s.params.capacity) :
    advance L s = drain (loadChannels L s) := by
  unfold advance; rw [if_neg (by simp [he]), if_pos (by simpa [drained] using h)]

/-- What a drain that succeeds does: the final one, or one with a refill (R163 to R165). -/
theorem drain_ok {s t : State} (h : drain s = .ok t) :
    (s.remaining = 0 ∧ t = notifyObserver { s with empty := true }) ∨
    (s.remaining ≠ 0 ∧ ∃ u, fill { s with empty := true } = .ok u ∧ t = notifyObserver u) := by
  unfold drain at h
  split at h
  · rename_i h0; cases h; exact .inl ⟨h0, rfl⟩
  · rename_i h0
    split at h
    · cases h
    · rename_i u hu; cases h; exact .inr ⟨h0, u, hu, rfl⟩

/-- What an advancement that succeeds does: nothing, a load, or a load with a drain (R160). -/
theorem advance_ok {L : BitVec 6} {s t : State} (h : advance L s = .ok t) :
    (s.empty = true ∧ t = s) ∨
    (s.empty = false ∧ (loadChannels L s).index ≠ s.params.capacity ∧ t = loadChannels L s) ∨
    (s.empty = false ∧ (loadChannels L s).index = s.params.capacity ∧ drain (loadChannels L s) = .ok t) := by
  unfold advance at h
  split at h
  · rename_i he; cases h; exact .inl ⟨he, rfl⟩
  · rename_i he
    split at h
    · rename_i hd; exact .inr (.inr ⟨by simpa using he, by simpa [drained] using hd, h⟩)
    · rename_i hd; cases h; exact .inr (.inl ⟨by simpa using he, by simpa [drained] using hd, rfl⟩)

/-! ### The tick -/

theorem fallingTick_of_midword {L : BitVec 6} {s : State} (h : s.bitCount ≠ L) : fallingTick L s = .ok (driveFalling L s) := by
  simp [fallingTick, wordDone, h]

theorem fallingTick_of_done {L : BitVec 6} {s : State} (h : s.bitCount = L) :
    fallingTick L s = advance L (completeWord (driveFalling L s)) := by
  simp [fallingTick, wordDone, h]

theorem tick_of_idle {s : State} {L : BitVec 6} {p : Word} (d : Lanes Bool) (hl : s.lifecycle = .begun L p) (hr : s.run = .idle) :
    tick d s = .next s := by
  unfold tick; split <;> simp_all [tickBody, running]

theorem tick_of_rising {s : State} {L : BitVec 6} {p : Word} (d : Lanes Bool) (hl : s.lifecycle = .begun L p)
    (hr : s.run = .running) (hp : s.phase = .rising) : tick d s = .next (risingTick L d s) := by
  unfold tick; split <;> simp_all [tickBody, running]

theorem tick_of_falling {s : State} {L : BitVec 6} {p : Word} (d : Lanes Bool) (hl : s.lifecycle = .begun L p)
    (hr : s.run = .running) (hp : s.phase = .falling) : tick d s = answerOf (fallingTick L s) := by
  unfold tick; split <;> simp_all [tickBody, running]

/-- What a falling half that succeeds does: the outputs alone, or a completed word (R143, R145). -/
theorem fallingTick_ok {L : BitVec 6} {s t : State} (h : fallingTick L s = .ok t) :
    (s.bitCount ≠ L ∧ t = driveFalling L s) ∨
    (s.bitCount = L ∧ advance L (completeWord (driveFalling L s)) = .ok t) := by
  unfold fallingTick at h
  split at h
  · rename_i hw; exact .inr ⟨by simpa [wordDone] using hw, h⟩
  · rename_i hw; cases h; exact .inl ⟨by simpa [wordDone] using hw, rfl⟩

/-- What a tick that answers a next state does (R140). -/
theorem tick_next {d : Lanes Bool} {s t : State} (h : tick d s = .next t) : ∃ L p, s.lifecycle = .begun L p ∧
    ((s.run = .idle ∧ t = s) ∨
     (s.run = .running ∧ s.phase = .rising ∧ t = risingTick L d s) ∨
     (s.run = .running ∧ s.phase = .falling ∧ fallingTick L s = .ok t)) := by
  unfold tick at h
  split at h
  · cases h
  · cases h
  · rename_i L p hl
    refine ⟨L, p, hl, ?_⟩
    unfold tickBody at h
    split at h
    · rename_i hr
      have hr' : s.run = .running := by simpa [running] using hr
      split at h
      · rename_i hp; cases h; exact .inr (.inl ⟨hr', hp, rfl⟩)
      · rename_i hp
        refine .inr (.inr ⟨hr', hp, ?_⟩)
        unfold answerOf at h
        split at h
        · rename_i u hu; cases h; exact hu
        · cases h
    · rename_i hr
      cases h
      refine .inl ⟨?_, rfl⟩
      cases hrun : s.run with
      | idle => rfl
      | running => simp [running, hrun] at hr

/-! ### The host's memory -/

/-- No transfer is under way exactly when no source byte is left and the chunk buffer is empty (R73). -/
theorem transferUnderWay_eq_false (s : State) : transferUnderWay s = false ↔ s.remaining = 0 ∧ s.empty = true := by
  simp [transferUnderWay]

/-- A transfer is under way exactly when a source byte is left or the chunk buffer is not empty (R73). -/
theorem transferUnderWay_eq_true (s : State) : transferUnderWay s = true ↔ s.remaining ≠ 0 ∨ s.empty = false := by
  rw [← Bool.not_eq_false, transferUnderWay_eq_false, not_and_or, Bool.not_eq_true]

/-- A host store that answers a next state came outside a transfer, and updated one byte (R73, R239). -/
theorem hostStore_next {a : Word} {v : Option Byte} {s t : State} (h : hostStore a v s = .next t) :
    transferUnderWay s = false ∧ t = { s with mem := s.mem.update a.toNat v } := by
  unfold hostStore at h
  split at h
  · cases h
  · rename_i hw; cases h; exact ⟨by simpa using hw, rfl⟩

/-! ### A step -/

/-- An observed answer is next only for a next answer, with the ports recorded. -/
theorem observed_next {a : Answer} {t : State} (h : observed a = .next t) : ∃ u, a = .next u ∧ t = recordPorts u := by
  unfold observed at h
  split at h
  · rename_i u; cases h; exact ⟨u, rfl, rfl⟩
  · cases h
  · cases h

/-- What a step that answers a next state does: it waits, refuses a packet, runs a command, ticks, or lets the host store. -/
theorem step_next {s t : State} (h : step s = .next t) :
    (s.inputs = [] ∧ t = s) ∨
    (∃ header more rest e, s.inputs = .packet header more :: rest ∧ decode (header :: more) = .error e ∧
      t = recordPorts (refuse (decodeReason e) header { s with inputs := rest })) ∨
    (∃ header more rest i left u, s.inputs = .packet header more :: rest ∧ decode (header :: more) = .ok (i, left) ∧
      exec i { s with inputs := pushBack left rest } = .next u ∧ t = recordPorts u) ∨
    (∃ d rest u, s.inputs = .tick d :: rest ∧ tick d { s with inputs := rest } = .next u ∧ t = recordPorts u) ∨
    (∃ a v rest, s.inputs = .hostStore a v :: rest ∧ transferUnderWay s = false ∧
      t = { s with inputs := rest, mem := s.mem.update a.toNat v }) := by
  unfold step inputStep at h
  split at h
  · rename_i hi; cases h; exact .inl ⟨hi, rfl⟩
  · rename_i header more rest hi
    obtain ⟨u, hu, rfl⟩ := observed_next h
    unfold packetStep at hu
    split at hu
    · rename_i e he; cases hu; exact .inr (.inl ⟨_, _, _, e, hi, he, rfl⟩)
    · rename_i i left hd; exact .inr (.inr (.inl ⟨_, _, _, i, left, u, hi, hd, hu, rfl⟩))
  · rename_i d rest hi
    obtain ⟨u, hu, rfl⟩ := observed_next h
    exact .inr (.inr (.inr (.inl ⟨d, rest, u, hi, hu, rfl⟩)))
  · rename_i a v rest hi
    obtain ⟨hw, rfl⟩ := hostStore_next h
    exact .inr (.inr (.inr (.inr ⟨a, v, rest, hi, hw, rfl⟩)))

end Sys2Proof.Machine
end

