-- ==== Sys2Proof/Laws/Exec.lean ====
section
/-! SUPPORT. What a command that answers a next state has done, said once for each command: it was refused, or it had its effect. -/

namespace Sys2Proof.Machine

/-- The effect of each command on a bank that accepts it, as the whole state it leaves. -/
def CommandEffect (i : Instr) (s t : State) : Prop :=
  match i with
  | .configure len => s.lifecycle = .unconfigured ∧ len ≠ 0 ∧ t = { s with lifecycle := .configured (clampLength len) }
  | .beginScan period => ∃ L, s.lifecycle = .configured L ∧ t = { s with lifecycle := .begun L period, enN := laneAll .low }
  | .run => ∃ L, s.chainLength = some L ∧ t = { s with run := .running, scanComplete := false, bitCount := 0 }
  | .stop => ∃ L, s.chainLength = some L ∧ t = { s with run := .idle }
  | .clear => ∃ L, s.chainLength = some L ∧
      t = { s with sr := laneAll 0, srcPtr := 0, remaining := 0, index := 0, empty := true, scanComplete := false }
  | .loadWords w0 w1 w2 => ∃ L, s.chainLength = some L ∧
      t = { s with sr := laneMap (maskTo L) { ch0 := w0, ch1 := w1, ch2 := w2 }, scanComplete := false }
  | .loadData src len => ∃ L, s.chainLength = some L ∧
      ((len = 0 ∧ t = s) ∨
       (len ≠ 0 ∧ rangeFits src.toNat len.toNat = true ∧ fill { s with srcPtr := src, remaining := len, index := 0 } = .ok t))
  | .isComplete => ∃ L, s.chainLength = some L ∧ t = respond [boolWord (finished s)] s
  | .getOutput => ∃ L, s.chainLength = some L ∧ t = respond [s.sr.ch0, s.sr.ch1, s.sr.ch2] s
  | .verify ref len => ∃ L, s.chainLength = some L ∧ ∃ b : Bool, t = respond [boolWord b] s ∧
      ((len.toNat ≠ s.remaining.toNat + s.index ∧ b = false) ∨
       (len.toNat = s.remaining.toNat + s.index ∧ rangeFits ref.toNat len.toNat = true ∧ verifyBytes ref.toNat s = .ok b))
  | .setObserver obs => ∃ L, s.chainLength = some L ∧ obsReservedClear obs = true ∧ t = { s with obsEn := obsBit obs }

/-- LOAD_DATA on a configured bank: the no-op, or the first fill (R122, R123). -/
theorem startTransfer_next {src len : Word} {s t : State} (h : startTransfer src len s = .next t) :
    (len = 0 ∧ t = s) ∨
    (len ≠ 0 ∧ rangeFits src.toNat len.toNat = true ∧ fill { s with srcPtr := src, remaining := len, index := 0 } = .ok t) := by
  unfold startTransfer at h
  split at h
  · rename_i h0; cases h; exact .inl ⟨h0, rfl⟩
  · rename_i h0
    split at h
    · rename_i hr
      unfold answerOf at h
      split at h
      · rename_i u hu; cases h; exact .inr ⟨h0, hr, hu⟩
      · cases h
    · cases h

/-- VERIFY on a configured bank: the wrong length, or the comparison (R182). -/
theorem compareReference_next {ref len : Word} {s t : State} (h : compareReference ref len s = .next t) :
    ∃ b : Bool, t = respond [boolWord b] s ∧
      ((len.toNat ≠ s.remaining.toNat + s.index ∧ b = false) ∨
       (len.toNat = s.remaining.toNat + s.index ∧ rangeFits ref.toNat len.toNat = true ∧ verifyBytes ref.toNat s = .ok b)) := by
  unfold compareReference at h
  split at h
  · rename_i hl; cases h; exact ⟨false, rfl, .inl ⟨hl, rfl⟩⟩
  · rename_i hl
    split at h
    · rename_i hr
      split at h
      · cases h
      · rename_i b hb; cases h; exact ⟨b, rfl, .inr ⟨by simpa using hl, hr, hb⟩⟩
    · cases h

/-- A command that answers a next state was refused, or had its effect. -/
theorem exec_next {i : Instr} {s t : State} (h : exec i s = .next t) :
    (∃ r w, t = refuse r w s) ∨ CommandEffect i s t := by
  cases i with
  | configure len =>
    simp only [exec, execConfigure] at h
    split at h
    · rename_i hl
      split at h
      · cases h; exact .inl ⟨_, _, rfl⟩
      · rename_i h0; cases h; exact .inr ⟨hl, h0, rfl⟩
    · cases h; exact .inl ⟨_, _, rfl⟩
    · cases h; exact .inl ⟨_, _, rfl⟩
  | beginScan period =>
    simp only [exec, execBegin] at h
    split at h
    · cases h; exact .inl ⟨_, _, rfl⟩
    · rename_i L hl; cases h; exact .inr ⟨L, hl, rfl⟩
    · cases h; exact .inl ⟨_, _, rfl⟩
  | run =>
    obtain ⟨-, rfl⟩ | ⟨L, hL, hb⟩ := whenConfigured_next h
    · exact .inl ⟨_, _, rfl⟩
    · cases hb; exact .inr ⟨L, hL, rfl⟩
  | stop =>
    obtain ⟨-, rfl⟩ | ⟨L, hL, hb⟩ := whenConfigured_next h
    · exact .inl ⟨_, _, rfl⟩
    · cases hb; exact .inr ⟨L, hL, rfl⟩
  | clear =>
    obtain ⟨-, rfl⟩ | ⟨L, hL, hb⟩ := whenConfigured_next h
    · exact .inl ⟨_, _, rfl⟩
    · cases hb; exact .inr ⟨L, hL, rfl⟩
  | loadWords w0 w1 w2 =>
    obtain ⟨-, rfl⟩ | ⟨L, hL, hb⟩ := whenConfigured_next h
    · exact .inl ⟨_, _, rfl⟩
    · cases hb; exact .inr ⟨L, hL, rfl⟩
  | loadData src len =>
    obtain ⟨-, rfl⟩ | ⟨L, hL, hb⟩ := whenConfigured_next h
    · exact .inl ⟨_, _, rfl⟩
    · exact .inr ⟨L, hL, startTransfer_next hb⟩
  | isComplete =>
    obtain ⟨-, rfl⟩ | ⟨L, hL, hb⟩ := whenConfigured_next h
    · exact .inl ⟨_, _, rfl⟩
    · cases hb; exact .inr ⟨L, hL, rfl⟩
  | getOutput =>
    obtain ⟨-, rfl⟩ | ⟨L, hL, hb⟩ := whenConfigured_next h
    · exact .inl ⟨_, _, rfl⟩
    · cases hb; exact .inr ⟨L, hL, rfl⟩
  | verify ref len =>
    obtain ⟨-, rfl⟩ | ⟨L, hL, hb⟩ := whenConfigured_next h
    · exact .inl ⟨_, _, rfl⟩
    · exact .inr ⟨L, hL, compareReference_next hb⟩
  | setObserver obs =>
    obtain ⟨-, rfl⟩ | ⟨L, hL, hb⟩ := whenConfigured_next h
    · exact .inl ⟨_, _, rfl⟩
    · split at hb
      · rename_i ho; cases hb; exact .inr ⟨L, hL, ho, rfl⟩
      · cases hb; exact .inl ⟨_, _, rfl⟩

/-! ### What VERIFY compares -/

/-- Part 1 of VERIFY, where it succeeds: every byte read, and the answer says whether all agree (R182). -/
theorem verifyBuffer_ok {s : State} : ∀ {n ref k : Nat} {b : Bool}, verifyBuffer s ref k n = .ok b →
    (∀ j, j < n → memRead s (ref + j) ≠ none) ∧
    (b = true ↔ ∀ j, j < n → memRead s (ref + j) = some (bufAt s (k + j))) := by
  intro n
  induction n with
  | zero => intro ref k b h; cases h; simp
  | succ n ih =>
    intro ref k b h
    simp only [verifyBuffer] at h
    split at h
    · cases h
    · rename_i x hx
      split at h
      · cases h
      · rename_i rest hr
        cases h
        obtain ⟨h1, h2⟩ := ih hr
        refine ⟨fun j hj => ?_, ?_⟩
        · cases j with
          | zero => simp [hx]
          | succ j => simpa [Nat.add_assoc, Nat.add_comm 1 j] using h1 j (by omega)
        · rw [Bool.and_eq_true, decide_eq_true_eq, h2]
          constructor
          · rintro ⟨h0, hk⟩ j hj
            cases j with
            | zero => simpa [h0] using hx
            | succ j => simpa [Nat.add_assoc, Nat.add_comm 1 j] using hk j (by omega)
          · intro hk
            refine ⟨?_, fun j hj => by simpa [Nat.add_assoc, Nat.add_comm 1 j] using hk (j + 1) (by omega)⟩
            have := hk 0 (by omega)
            simpa [hx, eq_comm] using this

/-- Part 2 of VERIFY, where it succeeds (R182). -/
theorem verifySource_ok {s : State} : ∀ {n src ref : Nat} {b : Bool}, verifySource s src ref n = .ok b →
    (∀ j, j < n → memRead s (src + j) ≠ none ∧ memRead s (ref + j) ≠ none) ∧
    (b = true ↔ ∀ j, j < n → memRead s (src + j) = memRead s (ref + j)) := by
  intro n
  induction n with
  | zero => intro src ref b h; cases h; simp
  | succ n ih =>
    intro src ref b h
    simp only [verifySource] at h
    split at h
    · cases h
    · rename_i x hx
      split at h
      · cases h
      · rename_i y hy
        split at h
        · cases h
        · rename_i rest hr
          cases h
          obtain ⟨h1, h2⟩ := ih hr
          refine ⟨fun j hj => ?_, ?_⟩
          · cases j with
            | zero => simp [hx, hy]
            | succ j => simpa [Nat.add_assoc, Nat.add_comm 1 j] using h1 j (by omega)
          · rw [Bool.and_eq_true, decide_eq_true_eq, h2]
            constructor
            · rintro ⟨h0, hk⟩ j hj
              cases j with
              | zero => simp [hx, hy, h0]
              | succ j => simpa [Nat.add_assoc, Nat.add_comm 1 j] using hk j (by omega)
            · intro hk
              refine ⟨?_, fun j hj => by simpa [Nat.add_assoc, Nat.add_comm 1 j] using hk (j + 1) (by omega)⟩
              have := hk 0 (by omega)
              simpa [hx, hy] using this

/-- Part 1 of VERIFY answers where every reference byte is admitted. -/
theorem verifyBuffer_total {s : State} : ∀ {n ref k : Nat}, (∀ j, j < n → memRead s (ref + j) ≠ none) →
    ∃ b, verifyBuffer s ref k n = .ok b := by
  intro n
  induction n with
  | zero => intro ref k _; exact ⟨true, rfl⟩
  | succ n ih =>
    intro ref k h
    obtain ⟨b, hb⟩ := ih (ref := ref + 1) (k := k + 1) fun j hj => by
      simpa [Nat.add_assoc, Nat.add_comm 1 j] using h (j + 1) (by omega)
    obtain ⟨x, hx⟩ := Option.ne_none_iff_exists'.mp (by simpa using h 0 (by omega))
    exact ⟨decide (bufAt s k = x) && b, by simp only [verifyBuffer, hx, hb]⟩

/-- Part 2 of VERIFY answers where every byte of both ranges is admitted. -/
theorem verifySource_total {s : State} : ∀ {n src ref : Nat},
    (∀ j, j < n → memRead s (src + j) ≠ none ∧ memRead s (ref + j) ≠ none) → ∃ b, verifySource s src ref n = .ok b := by
  intro n
  induction n with
  | zero => intro src ref _; exact ⟨true, rfl⟩
  | succ n ih =>
    intro src ref h
    obtain ⟨b, hb⟩ := ih (src := src + 1) (ref := ref + 1) fun j hj => by
      simpa [Nat.add_assoc, Nat.add_comm 1 j] using h (j + 1) (by omega)
    have h0 := h 0 (by omega)
    obtain ⟨x, hx⟩ := Option.ne_none_iff_exists'.mp (by simpa using h0.1)
    obtain ⟨y, hy⟩ := Option.ne_none_iff_exists'.mp (by simpa using h0.2)
    exact ⟨decide (x = y) && b, by simp only [verifySource, hx, hy, hb]⟩

/-- The stuck causes of the two parts are addresses that are not admitted. -/
theorem verifyBuffer_error {s : State} : ∀ {n ref k : Nat} {f : Fault}, verifyBuffer s ref k n = .error f → ∃ a, f = .stuckMem a := by
  intro n
  induction n with
  | zero => intro ref k f h; cases h
  | succ n ih =>
    intro ref k f h
    simp only [verifyBuffer] at h
    split at h
    · cases h; exact ⟨_, rfl⟩
    · split at h
      · rename_i hr; cases h; exact ih hr
      · cases h

/-- See `verifyBuffer_error`. -/
theorem verifySource_error {s : State} : ∀ {n src ref : Nat} {f : Fault}, verifySource s src ref n = .error f →
    ∃ a, f = .stuckMem a := by
  intro n
  induction n with
  | zero => intro src ref f h; cases h
  | succ n ih =>
    intro src ref f h
    simp only [verifySource] at h
    split at h
    · cases h; exact ⟨_, rfl⟩
    · split at h
      · cases h; exact ⟨_, rfl⟩
      · split at h
        · rename_i hr; cases h; exact ih hr
        · cases h

end Sys2Proof.Machine
end

