-- ==== Sys2Proof/Laws/PerInstr.lean ====
section
/-! SUPPORT. A fact of every command as syntax, one lemma per constructor: the packet it encodes to has the length its own header gives
(R80, R91), and reads back through the header as a packet of that opcode. -/

namespace Sys2Proof.Laws.Packet

open Sys2Proof

/-- The packet is `1 + nops` words long, and its header says so and names the opcode. -/
def Statement (i : Instr) : Prop :=
  (encode i).length = 1 + i.opcode.nops ∧ packetLength i.header = (encode i).length ∧
    opcodeOf (opField i.header) = some i.opcode ∧ rsvField i.header = 0

/-- The header of an opcode: its own code below 28 zero bits (R81, R84). -/
theorem header_of_opcode (op : Opcode) :
    packetLength ((0 : BitVec 28) ++ op.code) = 1 + op.nops ∧
      opcodeOf (opField ((0 : BitVec 28) ++ op.code)) = some op ∧ rsvField ((0 : BitVec 28) ++ op.code) = 0 := by
  cases op <;> decide

theorem configure (len : Word) : Statement (.configure len) := ⟨rfl, header_of_opcode .configure⟩

theorem beginScan (period : Word) : Statement (.beginScan period) := ⟨rfl, header_of_opcode .beginScan⟩

theorem run : Statement .run := ⟨rfl, header_of_opcode .run⟩

theorem stop : Statement .stop := ⟨rfl, header_of_opcode .stop⟩

theorem clear : Statement .clear := ⟨rfl, header_of_opcode .clear⟩

theorem loadWords (w0 w1 w2 : Word) : Statement (.loadWords w0 w1 w2) := ⟨rfl, header_of_opcode .loadWords⟩

theorem loadData (src len : Word) : Statement (.loadData src len) := ⟨rfl, header_of_opcode .loadData⟩

theorem isComplete : Statement .isComplete := ⟨rfl, header_of_opcode .isComplete⟩

theorem getOutput : Statement .getOutput := ⟨rfl, header_of_opcode .getOutput⟩

theorem verify (ref len : Word) : Statement (.verify ref len) := ⟨rfl, header_of_opcode .verify⟩

theorem setObserver (obs : Word) : Statement (.setObserver obs) := ⟨rfl, header_of_opcode .setObserver⟩

end Sys2Proof.Laws.Packet
end

