-- ==== Sys2Proof/Tests/Slice0.lean ====
section
/-! SUPPORT. Tests on small banks. The expected results are those of 95_test_vectors.md (its row is named in the docstring) or are read
off the rule named. After them, one witness for each obligation with hypotheses: a concrete state and operands that meet them all. -/

namespace Sys2Proof.Tests

open Sys2Proof Sys2Proof.Machine

/-! ### Banks to test on (the conventions of 95_test_vectors.md: `C = 4`, not sticky) -/

/-- The memory of program P2. -/
def mem2 : Memory :=
  [(0x100, 0x11), (0x101, 0x22), (0x102, 0x33), (0x103, 0x44), (0x104, 0x55), (0x105, 0x66)] ++
  [(0x200, 0x11), (0x201, 0x22), (0x202, 0x33), (0x203, 0x55), (0x204, 0x66)]

/-- Power-on, with the draws written b0 to b3. -/
def bank : State := State.powerOn { capacity := 4, sticky := false } [0xB0, 0xB1, 0xB2, 0xB3] mem2 []

/-- After `configure 8`. -/
def configured8 : State := { bank with lifecycle := .configured 8 }

/-- After `configure 8; begin 10`. -/
def begun8 : State := { configured8 with lifecycle := .begun 8 10, enN := laneAll .low }

/-- Begun with `L = 8`, Running, Rising. -/
def running8 : State := { begun8 with run := .running }

/-- The start of V-TK-2. -/
def rising8 : State := { running8 with sr := { ch0 := 0x80, ch1 := 0x01, ch2 := 0xFF }, scanComplete := true }

/-- The start of V-TK-6: mid-word, before a falling tick. -/
def falling8 : State := { running8 with phase := .falling, bitCount := 3, sr := { ch0 := 0x80, ch1 := 0x7F, ch2 := 0x00 } }

/-- The start `A0` of section 2.5, at the completing falling tick. -/
def a0 : State := { running8 with
  phase := .falling
  bitCount := 8
  buf := [0x11, 0x22, 0x33, 0x44]
  empty := false
  remaining := 2
  srcPtr := 0x104
  obsEn := true }

/-- After V-AD-1, at the next completing falling tick. -/
def a1 : State := { a0 with index := 3 }

/-- After V-AD-3, at the next completing falling tick. -/
def a3 : State := { a0 with index := 3, buf := [0x55, 0x66, 0x33, 0x44], remaining := 0, srcPtr := 0x106 }

/-- The start state of S3, with V-LC-15's `run`, `obsEn` and `bitCount`. -/
def s3 : State := { running8 with
  sr := { ch0 := 0x12, ch1 := 0x34, ch2 := 0x56 }
  srcPtr := 0x105
  remaining := 7
  index := 2
  empty := false
  scanComplete := true
  buf := [0x11, 0x22, 0x33, 0x44]
  obsEn := true
  bitCount := 2 }

/-- The answer is a next state with this property. -/
def nextIs (a : Answer) (p : State → Bool) : Bool :=
  match a with
  | .next t => p t
  | .fault _ => false
  | .refused _ => false

/-- The answer is stuck at this address. -/
def stuckAt (a : Answer) (addr : Nat) : Bool :=
  match a with
  | .next _ => false
  | .fault f => decide (f = .stuckMem addr)
  | .refused _ => false

/-- The answer is that the host has no store at this address. -/
def turnedAway (a : Answer) (addr : Word) : Bool :=
  match a with
  | .next _ => false
  | .fault _ => false
  | .refused r => decide (r = .storeDuringTransfer addr)

/-- The answer is this state. -/
def nextEq (a : Answer) (t : State) : Bool := nextIs a fun u => decide (u = t)

/-- The answer is the state with one refusal more: the mark, and the record of this reason and word. -/
def refusedWith (a : Answer) (s : State) (reason : RefuseReason) (info : Word) : Bool :=
  nextEq a { s with refused := true, refusalLog := s.refusalLog ++ [{ reason := reason, info := info }] }

/-- The answer is the state with this response after its history. -/
def responds (a : Answer) (s : State) (words : List Word) : Bool :=
  nextEq a { s with history := s.history ++ [.response words] }

/-- A sample triple written as R94 writes it. -/
def din (a b c : Bool) : Lanes Bool := { ch0 := a, ch1 := b, ch2 := c }

/-! ### Well-formedness: an ill-formed command for each check -/

theorem test_wf_refuses_zero_length : (Instr.configure 0).wf = false ∧ (Instr.configure 1).wf = true := by decide
theorem test_wf_refuses_reserved_observer_bits :
    (Instr.setObserver 2).wf = false ∧ (Instr.setObserver 0x80000001).wf = false ∧ (Instr.setObserver 1).wf = true := by decide
theorem test_range_refuses_long_chain : (Instr.configure 33).inRange = false ∧ (Instr.configure 32).inRange = true := by decide
theorem test_range_refuses_observer_values : (Instr.setObserver 2).inRange = false ∧ (Instr.setObserver 0).inRange = true := by decide
theorem test_range_refuses_ranges_past_the_top :
    (Instr.loadData 0xFFFFFFFE 3).inRange = false ∧ (Instr.loadData 0xFFFFFFFC 4).inRange = true ∧
    (Instr.verify 0xFFFFFFFE 5).inRange = false ∧ (Instr.verify 0xFFFFFFFF 1).inRange = true := by decide

/-! ### Decoding: one packet for each command, its header written bit by bit from R81 and R84 (`RSV` in [31:4], `OP` in [3:0]) -/

/-- V-EN-1. -/
theorem test_decode_configure :
    decode [0b0000000000000000000000000000_0001, 8] = .ok (.configure 8, []) := by decide
theorem test_decode_begin : decode [0b0000000000000000000000000000_0010, 10] = .ok (.beginScan 10, []) := by decide
theorem test_decode_run : decode [0b0000000000000000000000000000_0011] = .ok (.run, []) := by decide
theorem test_decode_stop : decode [0b0000000000000000000000000000_0100] = .ok (.stop, []) := by decide
theorem test_decode_clear : decode [0b0000000000000000000000000000_0101] = .ok (.clear, []) := by decide
/-- V-EN-2: operand order. -/
theorem test_decode_load_words :
    decode [0b0000000000000000000000000000_0110, 0xA5, 0x0F, 0xFF] = .ok (.loadWords 0xA5 0x0F 0xFF, []) := by decide
theorem test_decode_load_data :
    decode [0b0000000000000000000000000000_0111, 0x100, 6] = .ok (.loadData 0x100 6, []) := by decide
theorem test_decode_is_complete : decode [0b0000000000000000000000000000_1000] = .ok (.isComplete, []) := by decide
theorem test_decode_get_output : decode [0b0000000000000000000000000000_1001] = .ok (.getOutput, []) := by decide
/-- V-EN-3. -/
theorem test_decode_verify :
    decode [0b0000000000000000000000000000_1010, 0x200, 5] = .ok (.verify 0x200 5, []) := by decide
theorem test_decode_set_observer :
    decode [0b0000000000000000000000000000_1011, 1] = .ok (.setObserver 1, []) := by decide

/-- V-EN-4, V-EN-5, V-EN-7: reserved opcodes, checked before the reserved bits. -/
theorem test_decode_reserved_opcodes :
    decode [0x0] = .error .reservedOp ∧ decode [0xC] = .error .reservedOp ∧ decode [0xD] = .error .reservedOp ∧
    decode [0xE] = .error .reservedOp ∧ decode [0xF] = .error .reservedOp ∧ decode [0x10] = .error .reservedOp := by decide
/-- V-EN-6, V-EN-11: reserved header bits, checked before the packet's length. -/
theorem test_decode_reserved_bits :
    decode [0x00000013] = .error .reservedBits ∧ decode [0xFFFFFFF1] = .error .reservedBits := by decide
/-- V-EN-8. -/
theorem test_decode_short_packet : decode [0x00000006, 1, 2] = .error .badPacket := by decide
/-- R91: the words after a packet are not part of it. -/
theorem test_decode_leaves_the_rest : decode [0x00000003, 0x00000004, 7] = .ok (.run, [0x00000004, 7]) := by decide
/-- R80, R85: the packets of P1, steps 1 to 3. -/
theorem test_encode_packets :
    encode (.configure 8) = [0x00000001, 0x00000008] ∧ encode (.beginScan 10) = [0x00000002, 0x0000000A] ∧
    encode (.loadWords 0xA5 0x0F 0xFF) = [0x00000006, 0x000000A5, 0x0000000F, 0x000000FF] := by decide
/-- The table's numbering: the header in bits 31..0, the first operand in bits 63..32 (log 18). -/
theorem test_table_words :
    decodeTableWord 96 0x00000006_00000100_00000007 = some (.loadData 0x100 6) ∧
    decodeTableWord 32 0x00000003 = some .run ∧ decodeTableWord 32 0x0000000C = none := by decide

/-! ### Commands -/

/-- V-LC-1, V-LC-2, V-LC-3. -/
theorem test_configure_clamps :
    nextEq (exec (.configure 8) bank) { bank with lifecycle := .configured 8 } = true ∧
    nextEq (exec (.configure 40) bank) { bank with lifecycle := .configured 32 } = true ∧
    nextEq (exec (.configure 0xFFFFFFFF) bank) { bank with lifecycle := .configured 32 } = true ∧
    nextEq (exec (.configure 1) bank) { bank with lifecycle := .configured 1 } = true := by decide
/-- V-LC-4, V-LC-5. -/
theorem test_configure_refuses :
    refusedWith (exec (.configure 0) bank) bank .zeroChain 0 = true ∧
    refusedWith (exec (.configure 16) configured8) configured8 .reconfigure 16 = true := by decide
/-- V-LC-7. -/
theorem test_begin_drives_enables :
    nextEq (exec (.beginScan 10) configured8)
      { configured8 with lifecycle := .begun 8 10, enN := { ch0 := .low, ch1 := .low, ch2 := .low } } = true := by decide
/-- V-LC-6, V-LC-8. -/
theorem test_begin_refuses :
    refusedWith (exec (.beginScan 10) bank) bank .notConfigured 2 = true ∧
    refusedWith (exec (.beginScan 20) begun8) begun8 .rebegin 20 = true := by decide
/-- V-LC-12. -/
theorem test_run_realigns :
    nextEq (exec .run { falling8 with run := .idle, scanComplete := true })
      { falling8 with run := .running, scanComplete := false, bitCount := 0 } = true := by decide
/-- V-LC-13, V-LC-10. -/
theorem test_stop_keeps_phase :
    nextEq (exec .stop { falling8 with bitCount := 5 }) { falling8 with bitCount := 5, run := .idle } = true ∧
    refusedWith (exec .stop bank) bank .notConfigured 4 = true := by decide
/-- V-LC-15, S3. -/
theorem test_clear :
    nextEq (exec .clear s3) { s3 with
      sr := { ch0 := 0, ch1 := 0, ch2 := 0 }
      srcPtr := 0
      remaining := 0
      index := 0
      empty := true
      scanComplete := false } = true := by decide
/-- V-LD-1, V-LD-3. -/
theorem test_load_words_truncates :
    nextEq (exec (.loadWords 0x1A5 0x0F 0xFFFFFFFF) { begun8 with scanComplete := true })
      { begun8 with sr := { ch0 := 0xA5, ch1 := 0x0F, ch2 := 0xFF } } = true ∧
    nextEq (exec (.loadWords 2 3 1) { begun8 with lifecycle := .begun 1 1 })
      { begun8 with lifecycle := .begun 1 1, sr := { ch0 := 0, ch1 := 1, ch2 := 1 } } = true := by decide
/-- V-LD-2: with `L = 32` no bit is lost. -/
theorem test_load_words_full_width :
    nextEq (exec (.loadWords 0xDEADBEEF 0 0x80000000) { begun8 with lifecycle := .begun 32 1 })
      { begun8 with lifecycle := .begun 32 1, sr := { ch0 := 0xDEADBEEF, ch1 := 0, ch2 := 0x80000000 } } = true := by decide
/-- V-LD-5, V-LD-6. -/
theorem test_load_data_fills :
    nextEq (exec (.loadData 0x100 6) begun8)
      { begun8 with buf := [0x11, 0x22, 0x33, 0x44], srcPtr := 0x104, remaining := 2, empty := false } = true ∧
    nextEq (exec (.loadData 0x100 3) begun8)
      { begun8 with buf := [0x11, 0x22, 0x33, 0xB3], srcPtr := 0x103, remaining := 0, empty := false } = true := by decide
/-- V-LD-8, V-LD-9, V-LD-10: past the top, up to the top, and a byte that is not admitted. -/
theorem test_load_data_edges :
    stuckAt (exec (.loadData 0xFFFFFFFE 3) begun8) 0x100000000 = true ∧
    nextEq (exec (.loadData 0xFFFFFFFE 2) { begun8 with mem := [(0xFFFFFFFE, 0xA3), (0xFFFFFFFF, 0xA4)] })
      { begun8 with mem := [(0xFFFFFFFE, 0xA3), (0xFFFFFFFF, 0xA4)], buf := [0xA3, 0xA4, 0xB2, 0xB3], empty := false } = true ∧
    stuckAt (exec (.loadData 0x104 6) begun8) 0x106 = true := by decide
/-- V-IC-1, V-IC-3, V-IC-4. -/
theorem test_is_complete :
    responds (exec .isComplete configured8) configured8 [0] = true ∧
    responds (exec .isComplete { begun8 with scanComplete := true, empty := false })
      { begun8 with scanComplete := true, empty := false } [0] = true ∧
    responds (exec .isComplete { begun8 with scanComplete := true }) { begun8 with scanComplete := true } [1] = true := by decide
/-- V-GO-1: word order. -/
theorem test_get_output_order :
    responds (exec .getOutput { begun8 with sr := { ch0 := 1, ch1 := 2, ch2 := 3 } })
      { begun8 with sr := { ch0 := 1, ch1 := 2, ch2 := 3 } } [1, 2, 3] = true := by decide
/-- V-VF-1, V-VF-2, V-VF-4. -/
theorem test_verify_lengths :
    responds (exec (.verify 0 0) configured8) configured8 [1] = true ∧
    responds (exec (.verify 0x200 5) a1) a1 [1] = true ∧ responds (exec (.verify 0x200 6) a1) a1 [0] = true ∧
    responds (exec (.verify 0x200 4) a1) a1 [0] = true ∧ responds (exec (.verify 0xFFFFFFFF 7) a1) a1 [0] = true := by decide
/-- V-VF-3, V-VF-5, V-VF-6. -/
theorem test_verify_reads_every_byte :
    responds (exec (.verify 0x200 5) { a1 with mem := a1.mem.update 0x203 (some 0x56) })
      { a1 with mem := a1.mem.update 0x203 (some 0x56) } [0] = true ∧
    stuckAt (exec (.verify 0xFFFFFFFE 5) a1) 0x100000000 = true ∧
    stuckAt (exec (.verify 0x200 5) { a1 with mem := (a1.mem.update 0x201 none).update 0x200 (some 0x99) }) 0x201 = true := by decide
/-- V-OB-1, V-OB-2. -/
theorem test_set_observer :
    nextEq (exec (.setObserver 1) configured8) { configured8 with obsEn := true } = true ∧
    nextEq (exec (.setObserver 0) { configured8 with obsEn := true }) configured8 = true := by decide
/-- V-OB-4, V-EN-9, V-EN-10: the configuration is checked first. -/
theorem test_set_observer_refuses :
    refusedWith (exec (.setObserver 0x80000001) configured8) configured8 .reservedBits 0x80000001 = true ∧
    refusedWith (exec (.setObserver 2) configured8) configured8 .reservedBits 2 = true ∧
    refusedWith (exec (.setObserver 2) bank) bank .notConfigured 0xB = true := by decide

/-! ### TICK -/

/-- V-TK-1. -/
theorem test_tick_idle : nextEq (tick (din true true true) begun8) begun8 = true := by decide
/-- V-TK-2, V-TK-3. -/
theorem test_tick_rising :
    nextEq (tick (din true false true) rising8)
      { rising8 with
        sr := { ch0 := 0x01, ch1 := 0x02, ch2 := 0xFF }
        clk := .high
        bitCount := 1
        phase := .falling
        scanComplete := false } = true ∧
    nextIs (tick (din true false true) { rising8 with params := { capacity := 4, sticky := true } })
      (fun t => t.scanComplete && decide (t.bitCount = 1)) = true := by decide
/-- V-TK-4, V-TK-5. -/
theorem test_tick_widths :
    nextIs (tick (din false true true) { rising8 with lifecycle := .begun 32 1, sr := laneAll 0xFFFFFFFF })
      (fun t => decide (t.sr = { ch0 := 0xFFFFFFFE, ch1 := 0xFFFFFFFF, ch2 := 0xFFFFFFFF })) = true ∧
    nextIs (tick (din false true true) { rising8 with lifecycle := .begun 1 1, sr := { ch0 := 1, ch1 := 0, ch2 := 1 } })
      (fun t => decide (t.sr = { ch0 := 0, ch1 := 1, ch2 := 1 })) = true := by decide
/-- V-TK-6. -/
theorem test_tick_falling :
    nextEq (tick (din false false false) falling8)
      { falling8 with clk := .low, dout := { ch0 := .high, ch1 := .low, ch2 := .low }, phase := .rising } = true := by decide
/-- V-TK-7. -/
theorem test_tick_completion :
    nextEq (tick (din false false false) { falling8 with bitCount := 8, sr := { ch0 := 0xFF, ch1 := 0x00, ch2 := 0x81 } })
      { falling8 with
        sr := { ch0 := 0xFF, ch1 := 0x00, ch2 := 0x81 }
        clk := .low
        dout := { ch0 := .high, ch1 := .low, ch2 := .high }
        phase := .rising
        bitCount := 0
        scanComplete := true } = true := by decide
/-- V-AD-1. -/
theorem test_tick_advances :
    nextEq (tick (din false false false) a0) { a0 with
      sr := { ch0 := 0x11, ch1 := 0x22, ch2 := 0x33 }
      index := 3
      clk := .low
      dout := laneAll .low
      phase := .rising
      bitCount := 0
      scanComplete := true } = true := by decide
/-- V-AD-2. -/
theorem test_tick_refills :
    nextEq (tick (din false false false) a1) { a1 with
      sr := { ch0 := 0x44, ch1 := 0, ch2 := 0 }
      buf := [0x55, 0x66, 0x33, 0x44]
      srcPtr := 0x106
      remaining := 0
      index := 0
      clk := .low
      dout := laneAll .low
      phase := .rising
      bitCount := 0
      scanComplete := true
      history := [.chunkBoundary] } = true := by decide
/-- V-AD-4, V-AD-7. -/
theorem test_tick_drains :
    nextIs (tick (din false false false) a3)
      (fun t => decide (t.sr = { ch0 := 0x44, ch1 := 0, ch2 := 0 } ∧ t.index = 4 ∧ t.history = [.chunkBoundary]) && t.empty) = true ∧
    stuckAt (tick (din false false false) { a1 with mem := a1.mem.update 0x105 none }) 0x105 = true := by decide
/-- V-AD-9, V-AD-10: one drain, checked once after the three channels. -/
theorem test_tick_small_buffers :
    nextIs (tick (din false false false) { a0 with
        params := { capacity := 2, sticky := false }
        buf := [0x0A, 0x0B]
        remaining := 0 })
      (fun t => decide (t.sr = { ch0 := 0x0A, ch1 := 0x0B, ch2 := 0 } ∧ t.history = [.chunkBoundary]) && t.empty) = true ∧
    nextIs (tick (din false false false) { a0 with
        params := { capacity := 1, sticky := false }
        buf := [0x0A]
        remaining := 3
        srcPtr := 0x20
        mem := [(0x20, 0x0B)] })
      (fun t => decide (t.sr = { ch0 := 0x0A, ch1 := 0, ch2 := 0 } ∧ t.buf = [0x0B] ∧ t.srcPtr = 0x21 ∧ t.remaining = 2 ∧
        t.index = 0 ∧ t.empty = false)) = true := by decide

/-! ### Steps and reset -/

/-- A packet placed at reset is the next thing the machine runs (log 2). -/
theorem test_step_runs_placed_packet :
    nextIs (step (State.reset.withFetchWord 64 0x00000008_00000001)) (fun t => decide (t.lifecycle = .configured 8)) = true := by
  decide
/-- R221: after reset the bank waits; its memory is canonical. -/
theorem test_reset_waits : nextIs (step State.reset) (fun t => decide (t.inputs = [])) = true ∧ State.reset.mem.wf = true := by decide
/-- R239, R73: a host store outside a transfer keeps the canonical form; during one, even to a byte already copied, there is no such move. -/
theorem test_host_store :
    nextIs (step { bank with inputs := [.hostStore 0x150 (some 7)] })
      (fun t => t.mem.wf && decide (memRead t 0x150 = some 7 ∧ memRead t 0x105 = some 0x66 ∧ memRead t 0x151 = none)) = true ∧
    turnedAway (step { a1 with inputs := [.hostStore 0x100 (some 7)] }) 0x100 = true ∧
    turnedAway (step { a3 with inputs := [.hostStore 0x150 none] }) 0x150 = true := by decide
/-- R44: CFG and CTRL of V-AD's `A0`. -/
theorem test_internal_registers :
    regCfg a0 = 0x00000022 ∧ regCtrl a0 = 0x00000047 ∧ regPeriod a0 = 10 ∧ regSrcPtr a0 = 0x104 ∧ regRemain a0 = 2 := by decide

/-! ### Witnesses: the hypotheses of every obligation that has some can be met together -/

theorem witness_DecodeIffEncode :
    decode [0x00000001, 8, 3] = .ok (.configure 8, [3]) ∧ [0x00000001, 8, 3] = encode (.configure 8) ++ [3] := by decide
theorem witness_DecoderRefusesByName :
    (0x00000010 : Word).toNat % 16 = 0 ∧ 12 ≤ (0x0000000C : Word).toNat % 16 ∧ 12 ≤ (0x0000000F : Word).toNat % 16 ∧
    (1 ≤ (0x00000011 : Word).toNat % 16 ∧ (0x00000011 : Word).toNat % 16 ≤ 11 ∧ 16 ≤ (0x00000011 : Word).toNat) ∧
    (1 ≤ (0xFFFFFFFB : Word).toNat % 16 ∧ (0xFFFFFFFB : Word).toNat % 16 ≤ 11 ∧ 16 ≤ (0xFFFFFFFB : Word).toNat) ∧
    ((0x00000001 : Word) = (Instr.configure 0).header ∧ ([] : List Word).length < (Instr.configure 0).operands.length) ∧
    ((0x00000006 : Word) = (Instr.loadWords 0 0 0).header ∧
      ([1, 2] : List Word).length < (Instr.loadWords 0 0 0).operands.length) := by decide

/-- Power-on with one packet pending. -/
def pendingConfigure : State := { bank with inputs := [.packet 1 [8]] }
/-- A bank whose next packet is stuck: LOAD_DATA of a byte that is not admitted. -/
def pendingStuck : State := { begun8 with inputs := [.packet 7 [0x300, 1]] }

theorem witness_StepRunsDecodedCommand :
    (pendingConfigure.inputs = .packet 1 [8] :: [] ∧ decode [1, 8] = .ok (.configure 8, []) ∧
      ∃ t, exec (.configure 8) { pendingConfigure with inputs := pushBack [] [] } = .next t) ∧
    (pendingStuck.inputs = .packet 7 [0x300, 1] :: [] ∧ decode [7, 0x300, 1] = .ok (.loadData 0x300 1, []) ∧
      ∃ f, exec (.loadData 0x300 1) { pendingStuck with inputs := pushBack [] [] } = .fault f) :=
  ⟨⟨rfl, rfl, _, rfl⟩, rfl, rfl, .stuckMem 0x300, rfl⟩
theorem witness_StepRefusesPacket :
    ({ bank with inputs := [.packet 0xC []] } : State).inputs = .packet 0xC [] :: [] ∧ decode [0xC] = .error .reservedOp ∧
    decode [0x11] = .error .reservedBits ∧ decode [1] = .error .badPacket := by decide
theorem witness_StepTicksOrWaits :
    bank.inputs = [] ∧
    (({ rising8 with inputs := [.tick (din true true true)] } : State).inputs = .tick (din true true true) :: [] ∧
      ∃ t, tick (din true true true) { rising8 with inputs := [] } = .next t) ∧
    ∃ f, tick (din true true true) { a1 with mem := [], inputs := [] } = .fault f :=
  ⟨rfl, ⟨rfl, _, rfl⟩, .stuckMem 0x104, rfl⟩
/-- At power-on, and after a transfer has ended, for a store and for a withdrawal. -/
theorem witness_HostStoreReadsBack :
    (bank.mem.wf = true ∧ ({ bank with inputs := [.hostStore 0x150 (some 7)] } : State).inputs = .hostStore 0x150 (some 7) :: [] ∧
      bank.remaining = 0 ∧ bank.empty = true) ∧
    let s : State := { a3 with index := 4, empty := true, inputs := [.hostStore 0x100 none] }
    s.mem.wf = true ∧ s.inputs = .hostStore 0x100 none :: [] ∧ s.remaining = 0 ∧ s.empty = true := by decide
/-- With source bytes left, and with the last chunk in the buffer only; a step of each kind that answers a next state, and a store. -/
theorem witness_MemoryIsConstantDuringATransfer :
    (a1.remaining ≠ 0 ∧ ∃ t, step { a1 with inputs := [.tick (din true true true)] } = .next t) ∧
    (a3.remaining = 0 ∧ a3.empty = false ∧ ∃ t, step { a3 with inputs := [.packet 9 []] } = .next t) ∧
    ({ a3 with inputs := [.hostStore 0x100 none] } : State).inputs = .hostStore 0x100 none :: [] :=
  ⟨⟨by decide, _, rfl⟩, ⟨rfl, rfl, _, rfl⟩, rfl⟩
/-- One state for each clause: a start, a tick within and the final tick, a command within, a tick and a command outside. -/
theorem witness_TransferLastsUntilCompletion :
    (begun8.chainLength = some 8 ∧ (6 : Word) ≠ 0 ∧ ∃ t, exec (.loadData 0x100 6) begun8 = .next t) ∧
    ((∃ t, tick (din true true true) a1 = .next t ∧ transferUnderWay t = true) ∧ transferUnderWay a1 = true) ∧
    ((∃ t, tick (din true true true) a3 = .next t ∧ finished t = true) ∧ transferUnderWay a3 = true) ∧
    ((∃ t, exec .run a1 = .next t) ∧ Instr.run.opcode ≠ .clear ∧ Instr.run.opcode ≠ .loadData) ∧
    (∃ t, tick (din true true true) rising8 = .next t) ∧ (∃ t, exec .run rising8 = .next t) ∧ transferUnderWay rising8 = false :=
  ⟨⟨rfl, by decide, _, rfl⟩, ⟨⟨_, rfl, by decide⟩, rfl⟩, ⟨⟨_, rfl, by decide⟩, rfl⟩, ⟨⟨_, rfl⟩, by decide, by decide⟩, ⟨_, rfl⟩, ⟨_, rfl⟩, rfl⟩
theorem witness_PowerOnMeetsInv :
    1 ≤ bank.params.capacity ∧ ([0xB0, 0xB1, 0xB2, 0xB3] : List Byte).length = bank.params.capacity ∧ mem2.wf = true := by decide

/-- The invariant of a bank with a transfer under way. -/
theorem a1_inv : a1.Inv where
  registers := show (1 ≤ (8 : BitVec 6).toNat ∧ (8 : BitVec 6).toNat ≤ 32) ∧ ∀ i : Channel, confined 8 (laneGet a1.sr i) = true by decide
  clock := show (8 : BitVec 6).toNat ≤ (8 : BitVec 6).toNat ∧ (a1.phase = .rising → a1.bitCount.toNat < 8) by decide
  enables := rfl
  buffer := by unfold State.BufferCoherent; decide
  source := by unfold State.SourceInRange; decide
  mark := by unfold State.MarkCoherent; decide
  memory := by decide

/-- A one-byte buffer at a completing falling tick. -/
def tiny : State := { a1 with params := { capacity := 1, sticky := false }, buf := [0], index := 0 }

theorem tiny_inv : tiny.Inv where
  registers := a1_inv.registers
  clock := a1_inv.clock
  enables := rfl
  buffer := by unfold State.BufferCoherent; decide
  source := a1_inv.source
  mark := a1_inv.mark
  memory := a1_inv.memory

theorem witness_StepKeepsInv : a1.Inv ∧ ∃ t, step a1 = .next t := ⟨a1_inv, _, rfl⟩
/-- A bank whose mark is set, with a packet to run. -/
def marked : State := { pendingConfigure with refused := true, refusalLog := [{ reason := .reservedOp, info := 0 }] }

theorem witness_RefusedMarkIsSticky : marked.refused = true ∧ ∃ t, step marked = .next t := ⟨rfl, _, rfl⟩
theorem witness_HistoryOnlyGrows : ∃ t, step pendingConfigure = .next t ∧ t.history.length = 1 := ⟨_, rfl, rfl⟩
theorem witness_ConfigurationIsImmutable :
    (∃ t, step { begun8 with inputs := [.packet 1 [16]] } = .next t) ∧ begun8.chainLength = some 8 ∧ begun8.period = some 10 :=
  ⟨⟨_, rfl⟩, rfl, rfl⟩
theorem witness_CommandsAndTicksNeverWriteMemory :
    (∃ t, exec (.loadData 0x100 6) begun8 = .next t) ∧ ∃ t, tick (din true false true) a1 = .next t := ⟨⟨_, rfl⟩, _, rfl⟩
theorem witness_OnlyTicksWritePhaseAndLines : ∃ t, exec .run falling8 = .next t := ⟨_, rfl⟩
/-- Every command answers a next state here, so each clause has a command it speaks of. -/
theorem witness_EachElementHasItsWriters :
    ([.configure 8, .beginScan 1, .run, .stop, .clear, .loadWords 1 2 3, .loadData 0x100 6, .isComplete, .getOutput,
      .verify 0x200 5, .setObserver 0] : List Instr).all (fun i => nextIs (exec i a1) fun _ => true) = true ∧
    ∃ t, tick (din true false true) a1 = .next t := ⟨by decide, _, rfl⟩
/-- The lengths where the clamp begins, and the least one. -/
theorem witness_ConfigureStoresClampedLength :
    bank.lifecycle = .unconfigured ∧ (1 : Word) ≠ 0 ∧ (32 : Word) ≠ 0 ∧ (33 : Word) ≠ 0 := by decide
theorem witness_ConfigureRefusals :
    configured8.chainLength = some 8 ∧ begun8.chainLength = some 8 ∧ bank.lifecycle = .unconfigured ∧ (0 : Word) = 0 := by decide
theorem witness_BeginDrivesEnables : configured8.lifecycle = .configured 8 := by decide
theorem witness_BeginRefusals : bank.lifecycle = .unconfigured ∧ begun8.lifecycle = .begun 8 10 := by decide
theorem witness_RunRealignsTheWord : falling8.chainLength = some 8 ∧ configured8.chainLength = some 8 := by decide
theorem witness_StopSuppressesTicks : falling8.chainLength = some 8 ∧ falling8.lifecycle = .begun 8 10 := by decide
theorem witness_ClearIsIdempotent : s3.chainLength = some 8 := by decide
theorem witness_UnconfiguredRefusesEveryOtherCommand :
    bank.lifecycle = .unconfigured ∧ Instr.run.opcode ≠ .configure ∧ (Instr.setObserver 2).opcode ≠ .configure := by decide
theorem witness_LoadWordsTruncates : begun8.chainLength = some 8 := by decide
/-- A transfer longer than the buffer, and one that ends at the top of the address space. -/
theorem witness_LoadDataFillsFirstChunk :
    (begun8.chainLength = some 8 ∧ (6 : Word) ≠ 0 ∧ (0x100 : Word).toNat + (6 : Word).toNat ≤ 2 ^ 32 ∧
      ∀ k, k < min (6 : Word).toNat begun8.params.capacity → memRead begun8 ((0x100 : Word).toNat + k) ≠ none) ∧
    ((1 : Word) ≠ 0 ∧ (0xFFFFFFFF : Word).toNat + (1 : Word).toNat ≤ 2 ^ 32 ∧
      ∀ k, k < min (1 : Word).toNat begun8.params.capacity →
        memRead { begun8 with mem := [(0xFFFFFFFF, 1)] } ((0xFFFFFFFF : Word).toNat + k) ≠ none) := by decide
theorem witness_LoadDataZeroIsNoOp : s3.chainLength = some 8 := by decide
theorem witness_LoadDataStuck :
    begun8.chainLength = some 8 ∧ (3 : Word) ≠ 0 ∧ 2 ^ 32 < (0xFFFFFFFE : Word).toNat + (3 : Word).toNat ∧
    ∃ k, k < min (3 : Word).toNat begun8.params.capacity ∧ memRead begun8 ((0x104 : Word).toNat + k) = none :=
  ⟨by decide, by decide, by decide, 2, by decide, by decide⟩
theorem witness_SourceEndIsKept :
    (begun8.chainLength = some 8 ∧ (6 : Word) ≠ 0 ∧ ∃ t, exec (.loadData 0x100 6) begun8 = .next t) ∧
    ∃ t, tick (din false false false) a1 = .next t := ⟨⟨by decide, by decide, _, rfl⟩, _, rfl⟩
theorem witness_RisingTickShifts :
    rising8.lifecycle = .begun 8 10 ∧ rising8.run = .running ∧ rising8.phase = .rising ∧ (8 : BitVec 6).toNat ≤ 32 ∧
    rising8.bitCount.toNat < 63 := by decide
theorem witness_FallingTickDrivesTopBits :
    falling8.lifecycle = .begun 8 10 ∧ falling8.run = .running ∧ falling8.phase = .falling ∧ falling8.bitCount ≠ 8 := by decide
theorem witness_CompletionOnEmptyBufferKeepsRegisters :
    let s : State := { falling8 with bitCount := 8 }
    s.lifecycle = .begun 8 10 ∧ s.run = .running ∧ s.phase = .falling ∧ s.bitCount = 8 ∧ s.empty = true := by decide
theorem witness_AdvancementLoadsThreeBytes :
    a0.lifecycle = .begun 8 10 ∧ a0.run = .running ∧ a0.phase = .falling ∧ a0.bitCount = 8 ∧ a0.empty = false ∧
    a0.index + 3 < a0.params.capacity := by decide
/-- With one byte left for the channels, and with exactly three. -/
theorem witness_FinalDrain :
    (a3.lifecycle = .begun 8 10 ∧ a3.run = .running ∧ a3.phase = .falling ∧ a3.bitCount = 8 ∧ a3.empty = false ∧
      a3.index < a3.params.capacity ∧ a3.params.capacity ≤ a3.index + 3 ∧ a3.remaining = 0) ∧
    ({ a3 with index := 1 } : State).index + 3 = a3.params.capacity := by decide
theorem witness_DrainRefills :
    a1.lifecycle = .begun 8 10 ∧ a1.run = .running ∧ a1.phase = .falling ∧ a1.bitCount = 8 ∧ a1.empty = false ∧
    a1.index < a1.params.capacity ∧ a1.params.capacity ≤ a1.index + 3 ∧ a1.remaining ≠ 0 ∧
    ∀ k, k < min a1.remaining.toNat a1.params.capacity → memRead a1 (a1.srcPtr.toNat + k) ≠ none := by decide
theorem witness_RefillStuck :
    let s : State := { a1 with mem := a1.mem.update 0x105 none }
    (s.lifecycle = .begun 8 10 ∧ s.run = .running ∧ s.phase = .falling ∧ s.bitCount = 8 ∧ s.empty = false ∧
      s.index < s.params.capacity ∧ s.params.capacity ≤ s.index + 3 ∧ s.remaining ≠ 0) ∧
    ∃ k, k < min s.remaining.toNat s.params.capacity ∧ memRead s (s.srcPtr.toNat + k) = none :=
  ⟨by decide, 1, by decide, by decide⟩
theorem witness_TickNeedsBeginAndRun :
    bank.period = none ∧ configured8.period = none ∧ begun8.period = some 10 ∧ begun8.run = .idle := by decide
theorem witness_SamplesMatterOnlyOnRisingTicks :
    ¬ (begun8.run = .running ∧ begun8.phase = .rising) ∧ ¬ (falling8.run = .running ∧ falling8.phase = .rising) := by decide
/-- Two banks that agree on channel 0 only. -/
theorem witness_LanesAreIndependent :
    let s' : State := { rising8 with sr := { ch0 := 0x80, ch1 := 0x55, ch2 := 0x00 }, bitCount := 5 }
    (rising8.lifecycle = .begun 8 10 ∧ s'.lifecycle = .begun 8 10 ∧ rising8.run = .running ∧ s'.run = .running ∧
      rising8.phase = .rising ∧ s'.phase = .rising ∧ laneGet rising8.sr 0 = laneGet s'.sr 0 ∧
      laneGet (din true true true) 0 = laneGet (din true false false) 0) ∧
    (∃ t, tick (din true true true) rising8 = .next t) ∧ ∃ t', tick (din true false false) s' = .next t' :=
  ⟨by decide, ⟨_, rfl⟩, _, rfl⟩
/-- A word of two bits, started mid-word on an empty buffer; and a buffer with no byte for channel 2. -/
theorem witness_RepeatedBitFillsRegister :
    let s : State := { running8 with lifecycle := .begun 2 1, bitCount := 1 }
    let ds := [din true false true, din true true false]
    (s.lifecycle = .begun 2 1 ∧ 1 ≤ (2 : BitVec 6).toNat ∧ (2 : BitVec 6).toNat ≤ 32 ∧ s.run = .running ∧ s.phase = .rising ∧
      s.bitCount.toNat < (2 : BitVec 6).toNat ∧ ds.length = (2 : BitVec 6).toNat ∧ (∀ d, d ∈ ds → laneGet d 0 = true) ∧
      s.empty = true) ∧
    (∃ t, ticks (pairTicks ds) s = .next t) ∧
    (({ s with empty := false, index := 2 } : State).params.capacity ≤ 2 + (2 : Channel).val) := ⟨by decide, ⟨_, rfl⟩, by decide⟩
/-- The whole word and its first pair, on a bank that is not sticky and on one that is, with its flag up. -/
theorem witness_WordTakesLPairs :
    let s : State := { running8 with lifecycle := .begun 2 1 }
    let s' : State := { s with params := { capacity := 4, sticky := true }, scanComplete := true }
    let ds := [din true false true, din true true false]
    (s.lifecycle = .begun 2 1 ∧ 1 ≤ (2 : BitVec 6).toNat ∧ (2 : BitVec 6).toNat ≤ 32 ∧ s.run = .running ∧ s.phase = .rising ∧
      s.bitCount = 0 ∧ ds ≠ [] ∧ ds.length ≤ (2 : BitVec 6).toNat) ∧
    (∃ t, ticks (pairTicks ds) s = .next t ∧ t.scanComplete = true) ∧
    (∃ t, ticks (pairTicks [din true false true]) s = .next t ∧ t.scanComplete = false) ∧
    ∃ t, ticks (pairTicks [din true false true]) s' = .next t ∧ t.scanComplete = true :=
  ⟨by decide, ⟨_, rfl, rfl⟩, ⟨_, rfl, rfl⟩, _, rfl, rfl⟩
theorem witness_TopBitIsShiftedOutUnseen :
    rising8.lifecycle = .begun 8 10 ∧ 1 ≤ (8 : BitVec 6).toNat ∧ (8 : BitVec 6).toNat ≤ 32 ∧ rising8.run = .running ∧
    rising8.phase = .rising ∧ ∃ t, ticks [din true false true, din false false false] rising8 = .next t :=
  ⟨by decide, by decide, by decide, by decide, by decide, _, rfl⟩
/-- A memory that lists only the source bytes still to be copied; and one that lists none of them. -/
theorem witness_TickReadsOnlyThePendingSource :
    (∀ k, k < a1.remaining.toNat → memRead { a1 with mem := [(0x104, 0x55), (0x105, 0x66)] } (a1.srcPtr.toNat + k) =
      memRead a1 (a1.srcPtr.toNat + k)) ∧
    (∃ t, tick (din true true true) a1 = .next t) ∧ ∃ f, tick (din true true true) { a1 with mem := [] } = .fault f :=
  ⟨by decide, ⟨_, rfl⟩, .stuckMem 0x104, rfl⟩
theorem witness_EachDrainIsHeardOnce :
    a1.Inv ∧ (∃ t, tick (din true true true) a1 = .next t) ∧ a1.obsEn = true ∧ ({ a1 with obsEn := false } : State).obsEn = false :=
  ⟨a1_inv, ⟨_, rfl⟩, rfl, rfl⟩
theorem witness_DrainEmitsOneEvent :
    a1.Inv ∧ (∃ t, tick (din true true true) a1 = .next t) ∧ (∃ t, exec (.loadData 0x100 6) a1 = .next t) ∧
    ∃ t, exec .getOutput bank = .next t := ⟨a1_inv, ⟨_, rfl⟩, ⟨_, rfl⟩, _, rfl⟩
/-- A transfer of one byte through a one-byte buffer: not ended right after LOAD_DATA, ended at the next completion. -/
theorem witness_TransferIsHeardInFull :
    (tiny.Inv ∧ tiny.chainLength = some 8 ∧ tiny.obsEn = true ∧ (1 : Word) ≠ 0) ∧
    (∃ t, exec (.loadData 0x100 1) tiny = .next t ∧ ∃ u, ticks [] t = .next u ∧ ¬ (u.remaining = 0 ∧ u.empty = true)) ∧
    ∃ t, exec (.loadData 0x100 1) tiny = .next t ∧ ∃ u, ticks [din true true true] t = .next u ∧ u.remaining = 0 ∧ u.empty = true :=
  ⟨⟨tiny_inv, rfl, rfl, by decide⟩, ⟨_, rfl, _, rfl, by decide⟩, _, rfl, _, rfl, rfl, rfl⟩
theorem witness_IsCompleteResponds : configured8.chainLength = some 8 ∧ a1.chainLength = some 8 := by decide
theorem witness_GetOutputSnapshots : a1.chainLength = some 8 := by decide
theorem witness_VerifyWrongLengthAnswersZero :
    a1.chainLength = some 8 ∧ (4 : Word).toNat ≠ a1.remaining.toNat + a1.index ∧
    (6 : Word).toNat ≠ a1.remaining.toNat + a1.index := by decide
theorem witness_VerifyComparesEveryByte :
    a1.chainLength = some 8 ∧ (5 : Word).toNat = a1.remaining.toNat + a1.index ∧
    (0x200 : Word).toNat + (5 : Word).toNat ≤ 2 ^ 32 ∧ (∀ k, k < (5 : Word).toNat → memRead a1 ((0x200 : Word).toNat + k) ≠ none) ∧
    ∀ k, k < a1.remaining.toNat → memRead a1 (a1.srcPtr.toNat + k) ≠ none := by decide
/-- Each of the three causes. -/
theorem witness_VerifyStuck :
    (a1.chainLength = some 8 ∧ (5 : Word).toNat = a1.remaining.toNat + a1.index) ∧
    2 ^ 32 < (0xFFFFFFFC : Word).toNat + (5 : Word).toNat ∧
    (∃ k, k < (5 : Word).toNat ∧ memRead a1 ((0x201 : Word).toNat + k) = none) ∧
    ∃ k, k < a1.remaining.toNat ∧ memRead { a1 with mem := a1.mem.update 0x105 none } (a1.srcPtr.toNat + k) = none :=
  ⟨by decide, by decide, ⟨4, by decide, by decide⟩, 1, by decide, by decide⟩
theorem witness_ReadersWriteNothing :
    (Instr.isComplete.opcode = .isComplete ∧ ∃ t, exec .isComplete a1 = .next t) ∧
    (Instr.getOutput.opcode = .getOutput ∧ ∃ t, exec .getOutput a1 = .next t) ∧
    ((Instr.verify 0x200 5).opcode = .verify ∧ ∃ t, exec (.verify 0x200 5) a1 = .next t) ∧ a1.chainLength ≠ none ∧
    (∃ t, exec .getOutput bank = .next t) ∧ bank.chainLength = none :=
  ⟨⟨rfl, _, rfl⟩, ⟨rfl, _, rfl⟩, ⟨rfl, _, rfl⟩, by decide, ⟨_, rfl⟩, rfl⟩
theorem witness_VerifyIgnoresRegisters :
    (∃ t, exec (.verify 0x200 5) a1 = .next t) ∧ ∃ f, exec (.verify 0x201 5) a1 = .fault f := ⟨⟨_, rfl⟩, .stuckMem 0x205, rfl⟩
theorem witness_SetObserverWritesFlag :
    configured8.chainLength = some 8 ∧ (0 : Word).toNat ≤ 1 ∧ (1 : Word).toNat ≤ 1 := by decide
theorem witness_SetObserverRefusesReservedBits :
    configured8.chainLength = some 8 ∧ 2 ≤ (2 : Word).toNat ∧ 2 ≤ (0x80000001 : Word).toNat := by decide
theorem witness_InternalRegisterFields : a1.Inv ∧ (regIndex a1).toNat = 3 := ⟨a1_inv, by decide⟩

end Sys2Proof.Tests
end

section
/-! PROOFS. IS_COMPLETE on a configured bank (44_completion_verify.md). -/

namespace Sys2Proof.Machine

/-! ### The completion predicate as a word -/

/-- A transfer is logically finished exactly when the three conditions of R40 hold together. -/
theorem finished_iff (s : State) : finished s = true ↔ s.scanComplete = true ∧ s.remaining = 0 ∧ s.empty = true := by
  simp [finished, and_assoc]

@[simp] theorem boolWord_toNat (b : Bool) : (boolWord b).toNat = if b = true then 1 else 0 := by
  cases b <;> rfl

/-! ### The command -/

/-- IS_COMPLETE past the configuration gate: one response word, from the completion predicate (R180). -/
theorem exec_isComplete_of_configured {s : State} {L : BitVec 6} (h : s.chainLength = some L) :
    exec .isComplete s = .next (respond [boolWord (finished s)] s) :=
  whenConfigured_some h

/-- Settles O48: the gate lets the command through, its response is the one change, and the word is R40's predicate. -/
theorem isCompleteResponds : Obligations.IsCompleteResponds := by
  intro s L hL
  refine ⟨boolWord (finished s), exec_isComplete_of_configured hL, ?_⟩
  simp only [boolWord_toNat, finished_iff]

end Sys2Proof.Machine
end

section
/-! PROOFS. STOP on a configured bank, and the ticks after it (40_lifecycle.md). -/

namespace Sys2Proof.Machine

/-- STOP past the configuration gate: the run state is the one field written (R107). -/
theorem exec_stop_of_configured {s : State} {L : BitVec 6} (h : s.chainLength = some L) :
    exec .stop s = .next { s with run := .idle } :=
  whenConfigured_some h

/-- On an Idle bank STOP has nothing left to write (R108). -/
theorem exec_stop_of_idle {s : State} {L : BitVec 6} (h : s.chainLength = some L) (hr : s.run = .idle) :
    exec .stop s = .next s := by
  rw [exec_stop_of_configured h, ← hr]

/-- Settles O23: the stopped bank keeps its lifecycle, so STOP still passes the gate there, and it is Idle, so neither STOP nor a tick
changes it. -/
theorem stopSuppressesTicks : Obligations.StopSuppressesTicks := by
  intro s L hL
  have hStopped : State.chainLength { s with run := .idle } = some L := (chainLength_congr rfl).trans hL
  exact ⟨_, exec_stop_of_configured hL, rfl, exec_stop_of_idle hStopped rfl, fun _ _ d hBegun => tick_of_idle d hBegun rfl⟩

end Sys2Proof.Machine
end

section
/-! PROOFS. LOAD_DATA whose first chunk is admitted (41_data_loading.md). -/

namespace Sys2Proof.Machine

/-! ### What a fill that succeeds leaves, field by field -/

section
variable {s t : State} (h : fill s = .ok t)
include h

/-- The first `min(remaining, C)` buffer positions hold the bytes at the source pointer (R124). -/
theorem bufAt_fill_of_lt {k : Nat} (hk : k < fillLength s) : memRead s (s.srcPtr.toNat + k) = some (bufAt t k) := by
  obtain ⟨bytes, hRead, rfl⟩ := fill_ok h
  obtain ⟨hLength, hBytes⟩ := readRange_ok hRead
  have hkBytes : k < bytes.length := hLength.symm ▸ hk
  rw [hBytes k hkBytes, bufAt_after_fill hLength rfl, dif_pos hkBytes]

/-- The later buffer positions keep their bytes (R125). -/
theorem bufAt_fill_of_le {k : Nat} (hk : fillLength s ≤ k) : bufAt t k = bufAt s k := by
  obtain ⟨bytes, hRead, rfl⟩ := fill_ok h
  obtain ⟨hLength, -⟩ := readRange_ok hRead
  rw [bufAt_after_fill hLength rfl, dif_neg (by omega)]

/-- The source pointer moves by the copy length, modulo `2^32` (R124). -/
theorem srcPtr_fill_toNat : t.srcPtr.toNat = (s.srcPtr.toNat + fillLength s) % 2 ^ 32 := by
  obtain ⟨bytes, -, rfl⟩ := fill_ok h
  simp

/-- The remaining length drops by the copy length, without a borrow (R124). -/
theorem remaining_fill_toNat : t.remaining.toNat = s.remaining.toNat - fillLength s := by
  obtain ⟨bytes, -, rfl⟩ := fill_ok h
  have hle := fillLength_le_remaining s
  have hlt := s.remaining.isLt
  simp only [BitVec.toNat_sub, BitVec.toNat_ofNat]
  omega

/-- The read index starts over (R124). -/
theorem index_fill : t.index = 0 := by
  obtain ⟨bytes, -, rfl⟩ := fill_ok h
  rfl

/-- The buffer counts as filled (R124). -/
theorem empty_fill : t.empty = false := by
  obtain ⟨bytes, -, rfl⟩ := fill_ok h
  rfl

/-- A fill writes these five fields alone (R126). -/
theorem fill_frame :
    t = { s with buf := t.buf, srcPtr := t.srcPtr, remaining := t.remaining, index := t.index, empty := t.empty } := by
  obtain ⟨bytes, -, rfl⟩ := fill_ok h
  rfl

end

/-! ### The command -/

/-- LOAD_DATA past its gate and its range check is the first fill of the transfer it starts (R122). -/
theorem exec_loadData_of_fill {s t : State} {L : BitVec 6} {src len : Word} (hL : s.chainLength = some L) (hLen : len ≠ 0)
    (hRange : src.toNat + len.toNat ≤ 2 ^ 32) (hFill : fill { s with srcPtr := src, remaining := len, index := 0 } = .ok t) :
    exec (.loadData src len) s = .next t := by
  have hGate : exec (.loadData src len) s = startTransfer src len s := whenConfigured_some hL
  rw [hGate, startTransfer, if_neg hLen, if_pos ((rangeFits_iff _ _).mpr hRange), hFill, answerOf]

/-- Settles O27: the first chunk is admitted, so the fill of the started transfer succeeds; each clause is what that fill leaves, and
starting the transfer writes no field but three of the fill's own. -/
theorem loadDataFillsFirstChunk : Obligations.LoadDataFillsFirstChunk := by
  intro s L src len hL hLen hRange hAdmitted
  obtain ⟨t, hFill⟩ := fill_total (s := { s with srcPtr := src, remaining := len, index := 0 }) hAdmitted
  have hFrame := fill_frame hFill
  exact ⟨t, exec_loadData_of_fill hL hLen hRange hFill, fun _ hk => bufAt_fill_of_lt hFill hk,
    fun _ hk => bufAt_fill_of_le hFill hk, srcPtr_fill_toNat hFill, remaining_fill_toNat hFill, index_fill hFill, empty_fill hFill,
    hFrame⟩

end Sys2Proof.Machine
end

section
/-! PROOFS. The observer event: one CHUNK_BOUNDARY for each drain, and none from anything else (43_chunk_advance.md, R165). -/

namespace Sys2Proof.Machine

/-! ### Counting boundary events -/

/-- The count is additive, so only the events a step appends have to be looked at. -/
@[simp] theorem boundaryCount_append (h h' : List Event) : boundaryCount (h ++ h') = boundaryCount h + boundaryCount h' := by
  induction h with
  | nil => simp [boundaryCount]
  | cons e h ih => cases e <;> simp [boundaryCount, ih, Nat.add_right_comm]

theorem boundaryCount_respond (ws : List Word) (s : State) : boundaryCount (respond ws s).history = boundaryCount s.history := by
  simp [boundaryCount]

theorem boundaryCount_notifyObserver (s : State) :
    boundaryCount (notifyObserver s).history = boundaryCount s.history + if s.obsEn = true then 1 else 0 := by
  rw [notifyObserver_history, boundaryCount_append]
  split <;> rfl

/-! ### From the drain up to the tick -/

theorem fill_history {s t : State} (h : fill s = .ok t) : t.history = s.history := by
  rw [fill_frame h]

theorem fill_obsEn {s t : State} (h : fill s = .ok t) : t.obsEn = s.obsEn := by
  rw [fill_frame h]

/-- A drain is heard once if there is an observer, whether it is the final one or refills (R165). -/
theorem boundaryCount_drain {s t : State} (h : drain s = .ok t) :
    boundaryCount t.history = boundaryCount s.history + if s.obsEn = true then 1 else 0 := by
  obtain ⟨-, rfl⟩ | ⟨-, u, hFill, rfl⟩ := drain_ok h
  · exact boundaryCount_notifyObserver _
  · rw [boundaryCount_notifyObserver, fill_history hFill, fill_obsEn hFill]

/-- From an index with a byte unread, the channel loads reach the capacity exactly if at most three bytes were unread (R161, R163). -/
theorem loadChannels_index_eq_capacity_iff {L : BitVec 6} {s : State} (h : s.index < s.params.capacity) :
    (loadChannels L s).index = s.params.capacity ↔ s.params.capacity ≤ s.index + 3 := by
  rw [loadChannels_index h.le, min_eq_right_iff]

/-- An advancement is heard exactly if it drains: the buffer is not empty and its last byte is among the three loaded. -/
theorem boundaryCount_advance {L : BitVec 6} {s t : State} (hUnread : s.empty = false → s.index < s.params.capacity)
    (h : advance L s = .ok t) :
    boundaryCount t.history = boundaryCount s.history +
      if s.obsEn = true ∧ s.empty = false ∧ s.params.capacity ≤ s.index + 3 then 1 else 0 := by
  obtain ⟨hEmpty, rfl⟩ | ⟨hFull, hIndex, rfl⟩ | ⟨hFull, hIndex, hDrain⟩ := advance_ok h
  · simp [hEmpty]
  · rw [Ne, loadChannels_index_eq_capacity_iff (hUnread hFull)] at hIndex
    simp [hIndex]
  · rw [loadChannels_index_eq_capacity_iff (hUnread hFull)] at hIndex
    simp [boundaryCount_drain hDrain, hFull, hIndex]

/-- A falling half is heard exactly if it completes a word whose advancement drains (R143, R145). -/
theorem boundaryCount_fallingTick {L : BitVec 6} {s t : State} (hUnread : s.empty = false → s.index < s.params.capacity)
    (h : fallingTick L s = .ok t) :
    boundaryCount t.history = boundaryCount s.history +
      if s.obsEn = true ∧ L = s.bitCount ∧ s.empty = false ∧ s.params.capacity ≤ s.index + 3 then 1 else 0 := by
  obtain ⟨hMidword, rfl⟩ | ⟨hDone, hAdvance⟩ := fallingTick_ok h
  · simp [hMidword.symm]
  · rw [if_congr (and_congr_right' (and_iff_right hDone.symm)) rfl rfl]
    exact boundaryCount_advance (s := completeWord (driveFalling L s)) hUnread hAdvance

/-- Of the ticks only a running, falling one can be heard; the invariant gives it its unread byte. -/
theorem boundaryCount_tick {s t : State} {d : Lanes Bool} (hInv : s.Inv) (h : tick d s = .next t) :
    boundaryCount t.history = boundaryCount s.history +
      if s.obsEn = true ∧ s.run = .running ∧ s.phase = .falling ∧ s.chainLength = some s.bitCount ∧ s.empty = false ∧
        s.params.capacity ≤ s.index + 3 then 1 else 0 := by
  obtain ⟨-, -, hUnread, -⟩ := hInv.buffer
  obtain ⟨L, p, hBegun, ⟨hIdle, rfl⟩ | ⟨-, hRising, rfl⟩ | ⟨hRunning, hFalling, hTick⟩⟩ := tick_next h
  · simp [hIdle]
  · simp [hRising]
  · have hLength : s.chainLength = some L := by simp [State.chainLength, hBegun]
    simp [boundaryCount_fallingTick hUnread hTick, hRunning, hFalling, hLength]

/-! ### Commands -/

/-- A command adds to the history at most its response, and the first fill of LOAD_DATA adds nothing (R95, R165). -/
theorem boundaryCount_exec {i : Instr} {s t : State} (h : exec i s = .next t) :
    boundaryCount t.history = boundaryCount s.history := by
  obtain ⟨r, w, rfl⟩ | hEffect := exec_next h
  · rfl
  cases i with
  | configure len => obtain ⟨-, -, rfl⟩ := hEffect; rfl
  | beginScan period => obtain ⟨L, -, rfl⟩ := hEffect; rfl
  | run => obtain ⟨L, -, rfl⟩ := hEffect; rfl
  | stop => obtain ⟨L, -, rfl⟩ := hEffect; rfl
  | clear => obtain ⟨L, -, rfl⟩ := hEffect; rfl
  | loadWords w0 w1 w2 => obtain ⟨L, -, rfl⟩ := hEffect; rfl
  | loadData src len =>
    obtain ⟨L, -, ⟨-, rfl⟩ | ⟨-, -, hFill⟩⟩ := hEffect
    · rfl
    · rw [fill_history hFill]
  | isComplete => obtain ⟨L, -, rfl⟩ := hEffect; exact boundaryCount_respond _ s
  | getOutput => obtain ⟨L, -, rfl⟩ := hEffect; exact boundaryCount_respond _ s
  | verify ref len => obtain ⟨L, -, b, rfl, -⟩ := hEffect; exact boundaryCount_respond _ s
  | setObserver obs => obtain ⟨L, -, -, rfl⟩ := hEffect; rfl

/-- Settles O46: a tick is heard for the drain it makes, and a command is never heard. -/
theorem drainEmitsOneEvent : Obligations.DrainEmitsOneEvent :=
  ⟨fun _ _ _ hInv hTick => boundaryCount_tick hInv hTick, fun _ _ _ hExec => boundaryCount_exec hExec⟩

end Sys2Proof.Machine
end

section
/-! PROOFS. Packets: the decoder against the encoder, the decoder's refusals, and fixed words and lines (30_encoding.md). -/

namespace Sys2Proof

/-! ### The header -/

/-- A header is its two fields (R81). -/
theorem rsvField_append_opField (header : Word) : rsvField header ++ opField header = header := by
  rw [rsvField, opField, BitVec.extractLsb'_append_extractLsb'_eq_extractLsb' (by rfl)]
  exact BitVec.extractLsb'_eq_self

/-- The opcode map is injective: only an opcode's own code names it (R84). -/
theorem opcodeOf_eq_some {x : BitVec 4} {op : Opcode} (h : opcodeOf x = some op) : x = op.code := by
  revert x
  cases op <;> decide

/-- The reserved opcodes are 0 and those from 12 up (R88). -/
theorem opcodeOf_eq_none_iff (x : BitVec 4) : opcodeOf x = none ↔ x.toNat = 0 ∨ 12 ≤ x.toNat := by
  revert x
  decide

/-- `OP` as a number (R81). -/
theorem opField_toNat (header : Word) : (opField header).toNat = header.toNat % 16 := by
  simp [opField]

/-- `RSV` as a number (R81). -/
theorem rsvField_toNat (header : Word) : (rsvField header).toNat = header.toNat / 16 := by
  have h := header.isLt
  simp only [rsvField, BitVec.extractLsb'_toNat, Nat.shiftRight_eq_div_pow]
  omega

/-- A header without reserved bits that names a command's opcode is that command's header. -/
theorem header_eq_of_fields {header : Word} {i : Instr} (hOp : opcodeOf (opField header) = some i.opcode)
    (hRsv : rsvField header = 0) : header = i.header := by
  rw [← rsvField_append_opField header, hRsv, opcodeOf_eq_some hOp, Instr.header]

/-! ### The operands -/

theorem operands_length (i : Instr) : i.operands.length = i.opcode.nops := by
  cases i <;> rfl

/-- A command's own operand words are taken whole, and what follows them is left over (R85). -/
theorem takeOperands_operands (i : Instr) (left : List Word) : takeOperands i.opcode (i.operands ++ left) = some (i, left) := by
  cases i <;> rfl

/-- What was taken was a command of this opcode with its operand words in front (R85). -/
theorem takeOperands_eq_some {op : Opcode} {words left : List Word} {i : Instr} (h : takeOperands op words = some (i, left)) :
    i.opcode = op ∧ words = i.operands ++ left := by
  cases op with
  | run | stop | clear | isComplete | getOutput => cases h; exact ⟨rfl, rfl⟩
  | configure | beginScan | loadWords | loadData | verify | setObserver =>
    simp only [takeOperands] at h
    split at h <;> cases h
    exact ⟨rfl, rfl⟩

/-- Fewer words than the opcode asks for give no command (R91). -/
theorem takeOperands_eq_none {op : Opcode} {words : List Word} (h : words.length < op.nops) : takeOperands op words = none := by
  rcases hTake : takeOperands op words with _ | ⟨i, left⟩
  · rfl
  · obtain ⟨rfl, rfl⟩ := takeOperands_eq_some hTake
    rw [List.length_append, operands_length] at h
    omega

/-! ### The decoder -/

/-- A command's header lets the decoder past its first two checks. -/
theorem decode_header_cons (i : Instr) (more : List Word) :
    decode (i.header :: more) = (takeOperands i.opcode more).elim (.error .badPacket) .ok := by
  obtain ⟨-, hOp, hRsv⟩ := Laws.Packet.header_of_opcode i.opcode
  rw [← Instr.header] at hOp hRsv
  simp only [decode, hOp, hRsv, ne_eq, not_true_eq_false, if_false]
  cases takeOperands i.opcode more <;> rfl

/-- A packet decodes to its command, with the words after it left over. -/
theorem decode_encode (i : Instr) (left : List Word) : decode (encode i ++ left) = .ok (i, left) := by
  rw [encode, List.cons_append, decode_header_cons, takeOperands_operands, Option.elim]

/-- Words that decode begin with the packet of their command. -/
theorem eq_encode_of_decode {words left : List Word} {i : Instr} (h : decode words = .ok (i, left)) : words = encode i ++ left := by
  unfold decode at h
  split at h
  · cases h
  · rename_i header more
    split at h
    · cases h
    · rename_i op hOp
      split at h
      · cases h
      · rename_i hRsv
        split at h
        · cases h
        · rename_i hTake
          cases h
          obtain ⟨rfl, rfl⟩ := takeOperands_eq_some hTake
          rw [header_eq_of_fields hOp (by simpa using hRsv), encode, List.cons_append]

/-- Settles O1: `decode` undoes `encode`, and takes nothing else. -/
theorem decodeIffEncode : Obligations.DecodeIffEncode := fun _ i left =>
  ⟨eq_encode_of_decode, fun h => h ▸ decode_encode i left⟩

/-! ### The refusals, in the decoder's order -/

theorem decode_of_reservedOp {header : Word} (more : List Word) (h : opcodeOf (opField header) = none) :
    decode (header :: more) = .error .reservedOp := by
  simp only [decode, h]

theorem decode_of_reservedBits {header : Word} (more : List Word) (hOp : opcodeOf (opField header) ≠ none)
    (hRsv : rsvField header ≠ 0) : decode (header :: more) = .error .reservedBits := by
  obtain ⟨op, hOp⟩ := Option.ne_none_iff_exists'.mp hOp
  simp only [decode, hOp, if_pos hRsv]

theorem decode_of_short {i : Instr} {more : List Word} (h : more.length < i.operands.length) :
    decode (i.header :: more) = .error .badPacket := by
  rw [decode_header_cons, takeOperands_eq_none (operands_length i ▸ h), Option.elim]

/-- Settles O2: each clause says which of the three checks is the first to fail. -/
theorem decoderRefusesByName : Obligations.DecoderRefusesByName := by
  intro header more
  have hOpNone := opcodeOf_eq_none_iff (opField header)
  rw [opField_toNat] at hOpNone
  refine ⟨fun h => decode_of_reservedOp more (hOpNone.mpr h), fun ⟨hLow, hHigh, hRsv⟩ => ?_, fun i hHeader hShort => ?_⟩
  · have hRsvNe : rsvField header ≠ 0 := fun hZero => by
      have hDiv : header.toNat / 16 = 0 := by rw [← rsvField_toNat, hZero]; rfl
      omega
    exact decode_of_reservedBits more (mt hOpNone.mp (by omega)) hRsvNe
  · rw [hHeader]
    exact decode_of_short hShort

/-! ### Fixed words and lines -/

/-- Settles O3: the packets are encodings, and each refused header fails its own check. -/
theorem specWordsDecode : Obligations.SpecWordsDecode :=
  ⟨decode_encode (.configure 8) [], decode_encode (.loadWords 0xA5 0x0F 0xFF) [], decode_encode (.verify 0x200 5) [],
    decode_of_reservedOp [] (by decide), decode_of_reservedBits [] (by decide) (by decide),
    decode_of_short (i := .loadWords 0 0 0) (more := [1, 2]) (by decide), decode_encode (.setObserver 2) []⟩

end Sys2Proof

namespace Sys2Proof.Machine

/-- Settles O4: the assembler is run on each line. -/
theorem assemblerLines : Obligations.AssemblerLines := by
  refine ⟨?_, ?_, ?_, ?_, ?_, ?_, ?_, ?_⟩ <;> decide

end Sys2Proof.Machine
end

section
/-! PROOFS. What a step does with the input that comes next (10_state.md section 11, log 2). -/

namespace Sys2Proof.Machine

/-! ### A step, by its input -/

theorem step_of_waiting {s : State} (h : s.inputs = []) : step s = .next s := by
  simp [step, inputStep, h]

theorem step_of_packet {s : State} {header : Word} {more : List Word} {rest : List Input}
    (h : s.inputs = .packet header more :: rest) : step s = observed (packetStep header more rest s) := by
  simp [step, inputStep, h]

theorem step_of_tick {s : State} {d : Lanes Bool} {rest : List Input} (h : s.inputs = .tick d :: rest) :
    step s = observed (tick d { s with inputs := rest }) := by
  simp [step, inputStep, h]

theorem step_of_hostStore {s : State} {a : Word} {v : Option Byte} {rest : List Input} (h : s.inputs = .hostStore a v :: rest) :
    step s = hostStore a v { s with inputs := rest } := by
  simp [step, inputStep, h]

/-! ### A packet -/

theorem packetStep_of_decode {header : Word} {more left : List Word} {i : Instr} (rest : List Input) (s : State)
    (h : decode (header :: more) = .ok (i, left)) :
    packetStep header more rest s = exec i { s with inputs := pushBack left rest } := by
  simp only [packetStep, h]

theorem packetStep_of_error {header : Word} {more : List Word} {e : DecodeError} (rest : List Input) (s : State)
    (h : decode (header :: more) = .error e) :
    packetStep header more rest s = .next (refuse (decodeReason e) header { s with inputs := rest }) := by
  simp only [packetStep, h]

/-- Settles O5: the packet of the step is the command's, and `observed` adds the ports to a next state and passes a fault on. -/
theorem stepRunsDecodedCommand : Obligations.StepRunsDecodedCommand := by
  intro s header more rest i left hInputs hDecode
  rw [step_of_packet hInputs, packetStep_of_decode rest s hDecode]
  exact ⟨fun t hExec => by rw [hExec]; rfl, fun f hExec => by rw [hExec]; rfl⟩

/-- Settles O6: the decoder's refusal is `refuse` on the remaining inputs, observed. -/
theorem stepRefusesPacket : Obligations.StepRefusesPacket := by
  intro s header more rest e hInputs hDecode
  rw [step_of_packet hInputs, packetStep_of_error rest s hDecode]
  rfl

/-! ### A tick, and nothing -/

/-- Settles O7, by what comes next. -/
theorem stepTicksOrWaits : Obligations.StepTicksOrWaits := by
  refine fun s => ⟨step_of_waiting, fun d rest t hInputs hTick => ?_, fun d rest f hInputs hTick => ?_⟩
  · rw [step_of_tick hInputs, hTick]; rfl
  · rw [step_of_tick hInputs, hTick]; rfl

/-! ### A host store -/

/-- Outside a transfer the host's store is a memory update (R239). -/
theorem hostStore_of_idle {s : State} (a : Word) (v : Option Byte) (h : transferUnderWay s = false) :
    hostStore a v s = .next { s with mem := s.mem.update a.toNat v } := by
  simp [hostStore, h]

/-- During a transfer the host has no store (R73, log 9). -/
theorem hostStore_of_transfer {s : State} (a : Word) (v : Option Byte) (h : transferUnderWay s = true) :
    hostStore a v s = .refused (.storeDuringTransfer a) := by
  simp [hostStore, h]

/-- The stored byte reads back: the address is a word, so it lies below the top. -/
theorem memRead_update_same {s t : State} {a : Word} {v : Option Byte} (hwf : s.mem.wf = true)
    (h : t.mem = s.mem.update a.toNat v) : memRead t a.toNat = v := by
  have ha : a.toNat < Config.addressTop := a.isLt
  rw [memRead, if_pos ha, h, Memory.lookup_update_same v hwf]

theorem memRead_update_other {s t : State} {a : Word} {v : Option Byte} {b : Nat} (hb : b ≠ a.toNat)
    (h : t.mem = s.mem.update a.toNat v) : memRead t b = memRead s b := by
  rw [memRead, memRead, h, Memory.lookup_update_other hb]

/-- Settles O8: the hypotheses say that no transfer is under way, so the step is the memory update. -/
theorem hostStoreReadsBack : Obligations.HostStoreReadsBack := by
  intro s a v rest hwf hInputs hRemaining hEmpty
  have hIdle : transferUnderWay { s with inputs := rest } = false := (transferUnderWay_eq_false _).mpr ⟨hRemaining, hEmpty⟩
  exact ⟨_, (step_of_hostStore hInputs).trans (hostStore_of_idle a v hIdle), rfl, memRead_update_same hwf rfl,
    fun b hb => memRead_update_other hb rfl⟩

end Sys2Proof.Machine
end

section
/-! PROOFS. Power-on reset (70_reset_and_hazards.md section 1). -/

namespace Sys2Proof.Machine

/-! ### The values -/

/-- Every position of a buffer of free draws reads as its own draw: a listed one is that draw, and so is a missing one
(log 4, log 15). -/
theorem bufAt_powerOn_draws (params : Params) (mem : Memory) (inputs : List Input) (n k : Nat) :
    bufAt (State.powerOn params ((List.range n).map Config.bufPowerOn) mem inputs) k = Config.bufPowerOn k := by
  rw [bufAt, State.powerOn, List.getD_map, List.getD_eq_getElem?_getD]
  rcases Nat.lt_or_ge k n with hk | hk
  · rw [List.getElem?_range hk, Option.getD_some]
  · rw [List.getElem?_eq_none (by simpa using hk), Option.getD_none]

/-- Settles O9: the fields of `powerOn` are read off, channel by channel where there are three. -/
theorem powerOnValues : Obligations.PowerOnValues := by
  refine ⟨fun params draws mem inputs i => ?_, rfl, bufAt_powerOn_draws _ _ _ _⟩
  have hSr : laneGet (laneAll (0 : Word)) i = 0 := laneGet_all _ _
  have hLevel : laneGet (laneAll Level.undriven) i = .undriven := laneGet_all _ _
  exact ⟨rfl, rfl, rfl, rfl, rfl, rfl, rfl, rfl, rfl, rfl, rfl, rfl, rfl, hSr, rfl, hLevel, hLevel, rfl, rfl⟩

/-! ### The invariant -/

/-- The power-on state meets the invariant: the bank is unconfigured with nothing in its registers or its buffer. -/
theorem powerOn_inv {params : Params} {draws : List Byte} {mem : Memory} (inputs : List Input) (hCapacity : 1 ≤ params.capacity)
    (hDraws : draws.length = params.capacity) (hMem : mem.wf = true) : (State.powerOn params draws mem inputs).Inv where
  registers := rfl
  clock := ⟨rfl, rfl, rfl, rfl⟩
  enables := rfl
  buffer := ⟨hCapacity, hDraws, nofun, fun _ => ⟨.inl rfl, rfl⟩⟩
  source := Nat.zero_le _
  mark := ⟨nofun, fun h => absurd rfl h⟩
  memory := hMem

/-- Settles O10: the reset state is the power-on state of a capacity, a buffer and a memory of the required form. -/
theorem powerOnMeetsInv : Obligations.PowerOnMeetsInv :=
  ⟨fun _ _ _ inputs hCapacity hDraws hMem => powerOn_inv inputs hCapacity hDraws hMem,
    powerOn_inv [] (by decide) (by simp) Memory.wf_nil⟩

end Sys2Proof.Machine
end

section
/-! PROOFS. Frames: which fields the shared operations, the commands and the tick can write, and the whole-machine rules that follow
(10_state.md). -/

namespace Sys2Proof.Machine

/-! ### The tick -/

theorem drain_frame {s t : State} (h : drain s = .ok t) :
    t = { s with
      buf := t.buf, srcPtr := t.srcPtr, remaining := t.remaining, index := t.index, empty := t.empty, history := t.history } := by
  obtain ⟨-, rfl⟩ | ⟨-, u, hFill, rfl⟩ := drain_ok h
  · unfold notifyObserver; split <;> rfl
  · obtain ⟨bytes, -, rfl⟩ := fill_ok hFill
    unfold notifyObserver; split <;> rfl

/-- An advancement writes the registers, the transfer and the history alone (R172). -/
theorem advance_frame {L : BitVec 6} {s t : State} (h : advance L s = .ok t) :
    t = { s with
      sr := t.sr, buf := t.buf, srcPtr := t.srcPtr, remaining := t.remaining, index := t.index, empty := t.empty
      history := t.history } := by
  obtain ⟨-, rfl⟩ | ⟨-, -, rfl⟩ | ⟨-, -, hDrain⟩ := advance_ok h
  · rfl
  · rw [loadChannels_eq L s]
  · rw [drain_frame hDrain, loadChannels_eq L s]

theorem fallingTick_frame {L : BitVec 6} {s t : State} (h : fallingTick L s = .ok t) :
    t = { s with
      clk := .low, dout := laneMap (topLevel L) s.sr, phase := .rising, bitCount := t.bitCount, scanComplete := t.scanComplete
      sr := t.sr, buf := t.buf, srcPtr := t.srcPtr, remaining := t.remaining, index := t.index, empty := t.empty
      history := t.history } := by
  obtain ⟨-, rfl⟩ | ⟨-, hAdvance⟩ := fallingTick_ok h
  · rfl
  · rw [advance_frame hAdvance]; rfl

/-- A tick writes the clock's and the transfer's fields, the registers and the history alone. -/
theorem tick_frame {d : Lanes Bool} {s t : State} (h : tick d s = .next t) :
    t = { s with
      clk := t.clk, dout := t.dout, phase := t.phase, bitCount := t.bitCount, scanComplete := t.scanComplete
      sr := t.sr, buf := t.buf, srcPtr := t.srcPtr, remaining := t.remaining, index := t.index, empty := t.empty
      history := t.history } := by
  obtain ⟨L, p, -, ⟨-, rfl⟩ | ⟨-, -, rfl⟩ | ⟨-, -, hTick⟩⟩ := tick_next h
  · rfl
  · rfl
  · rw [fallingTick_frame hTick]

/-- A tick adds to the history at most the observer's event. -/
theorem tick_history {d : Lanes Bool} {s t : State} (h : tick d s = .next t) : s.history <+: t.history := by
  obtain ⟨L, p, -, ⟨-, rfl⟩ | ⟨-, -, rfl⟩ | ⟨-, -, hTick⟩⟩ := tick_next h
  · exact List.prefix_rfl
  · exact List.prefix_rfl
  obtain ⟨-, rfl⟩ | ⟨-, hAdvance⟩ := fallingTick_ok hTick
  · exact List.prefix_rfl
  obtain ⟨-, rfl⟩ | ⟨-, -, rfl⟩ | ⟨-, -, hDrain⟩ := advance_ok hAdvance
  · exact List.prefix_rfl
  · simp
  obtain ⟨-, rfl⟩ | ⟨-, u, hFill, rfl⟩ := drain_ok hDrain
  · simp [notifyObserver_history]
  · simp [notifyObserver_history, fill_history hFill]

/-! ### The commands -/

/-- A command is refused, responds, or writes block state and the enables alone: `phase`, CLK, DOUT, memory, inputs and parameters are
never among it. -/
theorem exec_frame {i : Instr} {s t : State} (h : exec i s = .next t) :
    (∃ r w, t = refuse r w s) ∨ (∃ words, t = respond words s) ∨
    t = { s with
      lifecycle := t.lifecycle, run := t.run, bitCount := t.bitCount, scanComplete := t.scanComplete, sr := t.sr, buf := t.buf
      srcPtr := t.srcPtr, remaining := t.remaining, index := t.index, empty := t.empty, obsEn := t.obsEn, enN := t.enN } := by
  obtain hRefused | hEffect := exec_next h
  · exact .inl hRefused
  refine .inr ?_
  cases i with
  | configure len => obtain ⟨-, -, rfl⟩ := hEffect; exact .inr rfl
  | beginScan period => obtain ⟨L, -, rfl⟩ := hEffect; exact .inr rfl
  | run => obtain ⟨L, -, rfl⟩ := hEffect; exact .inr rfl
  | stop => obtain ⟨L, -, rfl⟩ := hEffect; exact .inr rfl
  | clear => obtain ⟨L, -, rfl⟩ := hEffect; exact .inr rfl
  | loadWords w0 w1 w2 => obtain ⟨L, -, rfl⟩ := hEffect; exact .inr rfl
  | loadData src len =>
    obtain ⟨L, -, ⟨-, rfl⟩ | ⟨-, -, hFill⟩⟩ := hEffect
    · exact .inr rfl
    · exact .inr (by rw [fill_frame hFill])
  | isComplete => obtain ⟨L, -, rfl⟩ := hEffect; exact .inl ⟨_, rfl⟩
  | getOutput => obtain ⟨L, -, rfl⟩ := hEffect; exact .inl ⟨_, rfl⟩
  | verify ref len => obtain ⟨L, -, b, rfl, -⟩ := hEffect; exact .inl ⟨_, rfl⟩
  | setObserver obs => obtain ⟨L, -, -, rfl⟩ := hEffect; exact .inr rfl

/-- Each block element is written by the commands named for it alone (10_state.md). -/
theorem exec_writers {i : Instr} {s t : State} (h : exec i s = .next t) :
    (i.opcode ≠ .configure ∧ i.opcode ≠ .beginScan → t.lifecycle = s.lifecycle) ∧
    (i.opcode ≠ .beginScan → t.enN = s.enN) ∧
    (i.opcode ≠ .run ∧ i.opcode ≠ .stop → t.run = s.run) ∧
    (i.opcode ≠ .run → t.bitCount = s.bitCount) ∧
    (i.opcode ≠ .run ∧ i.opcode ≠ .clear ∧ i.opcode ≠ .loadWords → t.scanComplete = s.scanComplete) ∧
    (i.opcode ≠ .clear ∧ i.opcode ≠ .loadWords → t.sr = s.sr) ∧
    (i.opcode ≠ .clear ∧ i.opcode ≠ .loadData →
      t.srcPtr = s.srcPtr ∧ t.remaining = s.remaining ∧ t.index = s.index ∧ t.empty = s.empty) ∧
    (i.opcode ≠ .loadData → t.buf = s.buf) ∧
    (i.opcode ≠ .setObserver → t.obsEn = s.obsEn) ∧
    (i.opcode.nresp = 0 → t.history = s.history) := by
  obtain ⟨r, w, rfl⟩ | hEffect := exec_next h
  · simp
  cases i with
  | configure len => obtain ⟨-, -, rfl⟩ := hEffect; simp [Instr.opcode]
  | beginScan period => obtain ⟨L, -, rfl⟩ := hEffect; simp [Instr.opcode]
  | run => obtain ⟨L, -, rfl⟩ := hEffect; simp [Instr.opcode]
  | stop => obtain ⟨L, -, rfl⟩ := hEffect; simp [Instr.opcode]
  | clear => obtain ⟨L, -, rfl⟩ := hEffect; simp [Instr.opcode]
  | loadWords w0 w1 w2 => obtain ⟨L, -, rfl⟩ := hEffect; simp [Instr.opcode]
  | loadData src len =>
    obtain ⟨L, -, ⟨-, rfl⟩ | ⟨-, -, hFill⟩⟩ := hEffect
    · simp
    · rw [fill_frame hFill]; simp [Instr.opcode]
  | isComplete => obtain ⟨L, -, rfl⟩ := hEffect; simp [Instr.opcode, Opcode.nresp]
  | getOutput => obtain ⟨L, -, rfl⟩ := hEffect; simp [Instr.opcode, Opcode.nresp]
  | verify ref len => obtain ⟨L, -, b, rfl, -⟩ := hEffect; simp [Instr.opcode, Opcode.nresp]
  | setObserver obs => obtain ⟨L, -, -, rfl⟩ := hEffect; simp [Instr.opcode]

/-- Settles O17: a command by its writers, a tick by its frame. -/
theorem eachElementHasItsWriters : Obligations.EachElementHasItsWriters := by
  refine ⟨fun i s t h => exec_writers h, fun d s t h => ?_⟩
  rw [tick_frame h]
  exact ⟨rfl, rfl, rfl, rfl, rfl, rfl, rfl, rfl⟩

/-- Settles O16: none of the three shapes of `exec_frame` writes these fields. -/
theorem onlyTicksWritePhaseAndLines : Obligations.OnlyTicksWritePhaseAndLines := by
  intro i s t h
  obtain ⟨r, w, rfl⟩ | ⟨words, rfl⟩ | hFrame := exec_frame h
  · exact ⟨rfl, rfl, rfl, rfl, rfl⟩
  · exact ⟨rfl, rfl, rfl, rfl, rfl⟩
  · rw [hFrame]; exact ⟨rfl, rfl, rfl, rfl, rfl⟩

theorem exec_mem {i : Instr} {s t : State} (h : exec i s = .next t) : t.mem = s.mem := by
  obtain ⟨r, w, rfl⟩ | ⟨words, rfl⟩ | hFrame := exec_frame h
  · rfl
  · rfl
  · rw [hFrame]

theorem tick_mem {d : Lanes Bool} {s t : State} (h : tick d s = .next t) : t.mem = s.mem := by
  rw [tick_frame h]

/-- Settles O15: a read sees the memory alone, which neither a command nor a tick writes. -/
theorem commandsAndTicksNeverWriteMemory : Obligations.CommandsAndTicksNeverWriteMemory :=
  ⟨fun _ _ _ h => memRead_congr (exec_mem h), fun _ _ _ h => memRead_congr (tick_mem h)⟩

/-! ### The refused mark -/

theorem exec_refused {i : Instr} {s t : State} (h : exec i s = .next t) (hs : s.refused = true) : t.refused = true := by
  obtain ⟨r, w, rfl⟩ | ⟨words, rfl⟩ | hFrame := exec_frame h
  · rfl
  · exact hs
  · rw [hFrame]; exact hs

/-- Settles O12: a refusal sets the mark, and every other effect of a step leaves it. -/
theorem refusedMarkIsSticky : Obligations.RefusedMarkIsSticky := by
  refine ⟨rfl, fun _ _ _ => rfl, fun s t h hs => ?_⟩
  obtain ⟨-, rfl⟩ | ⟨_, _, _, _, -, -, rfl⟩ | ⟨_, _, _, _, _, u, -, -, hExec, rfl⟩ | ⟨_, _, u, -, hTick, rfl⟩ |
    ⟨_, _, _, -, -, rfl⟩ := step_next h
  · exact hs
  · rfl
  · exact (exec_refused hExec hs :)
  · rw [tick_frame hTick]; exact hs
  · exact hs

/-! ### The history -/

theorem exec_history {i : Instr} {s t : State} (h : exec i s = .next t) : s.history <+: t.history := by
  obtain ⟨r, w, rfl⟩ | ⟨words, rfl⟩ | hFrame := exec_frame h
  · exact List.prefix_rfl
  · exact List.prefix_append _ _
  · rw [hFrame]

theorem step_history {s t : State} (h : step s = .next t) : s.history <+: t.history := by
  obtain ⟨-, rfl⟩ | ⟨_, _, _, _, -, -, rfl⟩ | ⟨_, _, _, _, _, u, -, -, hExec, rfl⟩ | ⟨_, _, u, -, hTick, rfl⟩ |
    ⟨_, _, _, -, -, rfl⟩ := step_next h
  · exact List.prefix_rfl
  · exact List.prefix_append _ _
  · exact (exec_history hExec).trans (List.prefix_append _ _)
  · exact (tick_history hTick).trans (List.prefix_append _ _)
  · exact List.prefix_rfl

/-- Settles O13: the new history begins with the old one. -/
theorem historyOnlyGrows : Obligations.HistoryOnlyGrows := fun _ _ h =>
  let ⟨added, hAdded⟩ := step_history h
  ⟨added, hAdded.symm⟩

/-! ### The configuration -/

/-- What an immutable configuration means for two states, one after the other (R101, R103). -/
def ConfigKept (s t : State) : Prop :=
  (∀ L, s.chainLength = some L → t.chainLength = some L) ∧ (∀ p, s.period = some p → t.period = some p) ∧ t.params = s.params

/-- The chain length and the period are read off the lifecycle. -/
theorem ConfigKept.of_lifecycle {s t : State} (hLifecycle : t.lifecycle = s.lifecycle) (hParams : t.params = s.params) :
    ConfigKept s t :=
  ⟨fun _ h => (chainLength_congr hLifecycle).trans h, fun _ h => (period_congr hLifecycle).trans h, hParams⟩

/-- CONFIGURE and BEGIN take effect where nothing that they store was stored before; no other command writes the lifecycle. -/
theorem exec_configKept {i : Instr} {s t : State} (h : exec i s = .next t) : ConfigKept s t := by
  obtain ⟨-, -, -, hParams, -⟩ := onlyTicksWritePhaseAndLines i s t h
  obtain ⟨r, w, rfl⟩ | hEffect := exec_next h
  · exact .of_lifecycle rfl rfl
  cases i with
  | configure len =>
    obtain ⟨hUnconfigured, -, rfl⟩ := hEffect
    exact ⟨by simp [State.chainLength, hUnconfigured], by simp [State.period, hUnconfigured], rfl⟩
  | beginScan period =>
    obtain ⟨L, hConfigured, rfl⟩ := hEffect
    exact ⟨by simp [State.chainLength, hConfigured], by simp [State.period, hConfigured], rfl⟩
  | run | stop | clear | loadWords | loadData | isComplete | getOutput | verify | setObserver =>
    exact .of_lifecycle ((exec_writers h).1 ⟨nofun, nofun⟩) hParams

/-- Settles O14: a command keeps the configuration, and no other step writes it. -/
theorem configurationIsImmutable : Obligations.ConfigurationIsImmutable := by
  intro s t h
  change ConfigKept s t
  obtain ⟨-, rfl⟩ | ⟨_, _, _, _, -, -, rfl⟩ | ⟨_, _, _, _, _, u, -, -, hExec, rfl⟩ | ⟨_, _, u, -, hTick, rfl⟩ |
    ⟨_, _, _, -, -, rfl⟩ := step_next h
  · exact .of_lifecycle rfl rfl
  · exact .of_lifecycle rfl rfl
  · exact (exec_configKept hExec :)
  · rw [tick_frame hTick]; exact .of_lifecycle rfl rfl
  · exact .of_lifecycle rfl rfl

end Sys2Proof.Machine
end

section
/-! PROOFS. Every command, every tick and every step keeps the invariant (10_state.md). -/

namespace Sys2Proof.Machine

/-! ### What the clauses say of a bank with a chain length -/

/-- The register clause on a bank with a chain length. -/
theorem registersConfined_iff {s : State} {L : BitVec 6} (h : s.chainLength = some L) :
    s.RegistersConfined ↔ (1 ≤ L.toNat ∧ L.toNat ≤ Config.maxChain) ∧ ∀ i : Channel, confined L (laneGet s.sr i) = true := by
  simp only [State.RegistersConfined, h]

/-- The clock clause on a begun bank. -/
theorem clockInStep_iff {s : State} {L : BitVec 6} {p : Word} (h : s.lifecycle = .begun L p) :
    s.ClockInStep ↔ s.bitCount.toNat ≤ L.toNat ∧ (s.phase = .rising → s.bitCount.toNat < L.toNat) := by
  simp only [State.ClockInStep, h]

theorem chainLength_of_begun {s : State} {L : BitVec 6} {p : Word} (h : s.lifecycle = .begun L p) : s.chainLength = some L := by
  simp only [State.chainLength, h]

/-- The chain length of a bank that meets the invariant is legal (R28). -/
theorem State.Inv.chainLength_legal {s : State} {L : BitVec 6} (hInv : s.Inv) (h : s.chainLength = some L) :
    1 ≤ L.toNat ∧ L.toNat ≤ Config.maxChain :=
  ((registersConfined_iff h).mp hInv.registers).1

/-- Confined registers stay so when each channel's new value is confined. -/
theorem State.RegistersConfined.of_sr {s t : State} {L : BitVec 6} (hs : s.RegistersConfined) (hL : s.chainLength = some L)
    (hLifecycle : t.lifecycle = s.lifecycle) (hSr : ∀ i : Channel, confined L (laneGet t.sr i) = true) : t.RegistersConfined :=
  (registersConfined_iff ((chainLength_congr hLifecycle).trans hL)).mpr ⟨((registersConfined_iff hL).mp hs).1, hSr⟩

/-! ### Refusals, responses, the port record, host stores -/

section
variable {s : State} (hInv : s.Inv)
include hInv

theorem refuse_inv (r : RefuseReason) (w : Word) : (refuse r w s).Inv :=
  { hInv with mark := iff_of_true rfl (List.append_ne_nil_of_right_ne_nil _ (List.cons_ne_nil _ _)) }

theorem inputs_inv (inputs : List Input) : State.Inv { s with inputs := inputs } := { hInv with }

theorem respond_inv (words : List Word) : (respond words s).Inv := { hInv with }

theorem recordPorts_inv : (recordPorts s).Inv := { hInv with }

theorem hostMem_inv (a : Word) (v : Option Byte) : State.Inv { s with mem := s.mem.update a.toNat v } :=
  { hInv with memory := Memory.wf_update hInv.memory a v }

end

/-! ### The fill -/

/-- A fill that succeeds on a buffer of `C >= 1` positions leaves it coherent: the bytes read replace as many (R36, R39). -/
theorem fill_bufferCoherent {s t : State} (h : fill s = .ok t) (hCapacity : 1 ≤ s.params.capacity)
    (hLength : s.buf.length = s.params.capacity) : t.BufferCoherent := by
  obtain ⟨bytes, hRead, rfl⟩ := fill_ok h
  have hBytes := (readRange_ok hRead).1
  have hle := fillLength_le_capacity s
  refine ⟨hCapacity, ?_, fun _ => hCapacity, nofun⟩
  simp only [List.length_append, List.length_drop]
  omega

/-- A fill moves the source pointer by what it takes from the remaining length (R128). -/
theorem fill_sourceInRange {s t : State} (h : fill s = .ok t) (hs : s.SourceInRange) : t.SourceInRange := by
  have hSrc := srcPtr_fill_toNat h
  have hRemaining := remaining_fill_toNat h
  have hle := fillLength_le_remaining s
  simp only [State.SourceInRange, Config.addressTop] at hs ⊢
  omega

/-! ### The advancement -/

/-- The invariant follows an advancement through its frame: only the registers, the buffer and the source range have to be seen to. -/
theorem State.Inv.of_advance {L : BitVec 6} {s t : State} (hInv : s.Inv) (h : advance L s = .ok t)
    (hRegisters : t.RegistersConfined) (hBuffer : t.BufferCoherent) (hSource : t.SourceInRange) : t.Inv := by
  have hFrame := advance_frame h
  refine ⟨hRegisters, ?_, ?_, hBuffer, hSource, ?_, ?_⟩
  · rw [hFrame]; exact hInv.clock
  · rw [hFrame]; exact hInv.enables
  · rw [hFrame]; exact hInv.mark
  · rw [hFrame]; exact hInv.memory

theorem drain_sr {s t : State} (h : drain s = .ok t) : t.sr = s.sr := by
  rw [drain_frame h]

/-- An advancement leaves the registers as they are, or as the channel loads leave them. -/
theorem advance_sr {L : BitVec 6} {s t : State} (h : advance L s = .ok t) : t.sr = s.sr ∨ t.sr = (loadChannels L s).sr := by
  obtain ⟨-, rfl⟩ | ⟨-, -, rfl⟩ | ⟨-, -, hDrain⟩ := advance_ok h
  · exact .inl rfl
  · exact .inr rfl
  · exact .inr (drain_sr hDrain)

/-- A channel's load is masked, and what it keeps was confined (R22, R162). -/
theorem confined_loadChannels {L : BitVec 6} {s : State} {i : Channel} (h : confined L (laneGet s.sr i) = true) :
    confined L (laneGet (loadChannels L s).sr i) = true := by
  rw [loadChannels_sr]
  split
  · exact confined_maskTo L _
  · exact h

theorem advance_registersConfined {L : BitVec 6} {s t : State} (hs : s.RegistersConfined) (hL : s.chainLength = some L)
    (h : advance L s = .ok t) : t.RegistersConfined := by
  have hConfined := ((registersConfined_iff hL).mp hs).2
  refine hs.of_sr hL (by rw [advance_frame h]) fun i => ?_
  obtain hSr | hSr := advance_sr h
  · rw [hSr]; exact hConfined i
  · rw [hSr]; exact confined_loadChannels (hConfined i)

/-- After the last byte the buffer is drained with its index at `C`, or filled again (R39, R163, R164). -/
theorem drain_bufferCoherent {s t : State} (h : drain s = .ok t) (hCapacity : 1 ≤ s.params.capacity)
    (hLength : s.buf.length = s.params.capacity) (hIndex : s.index = s.params.capacity) : t.BufferCoherent := by
  obtain ⟨hLast, rfl⟩ | ⟨-, u, hFill, rfl⟩ := drain_ok h
  · exact ⟨by simpa using hCapacity, by simpa using hLength, by simp, fun _ => ⟨.inr (by simpa using hIndex), by simpa using hLast⟩⟩
  · obtain ⟨hC, hBuf, hUnread, hEmpty⟩ := fill_bufferCoherent hFill hCapacity hLength
    exact ⟨by simpa using hC, by simpa using hBuf, by simpa using hUnread, by simpa using hEmpty⟩

theorem advance_bufferCoherent {L : BitVec 6} {s t : State} (hs : s.BufferCoherent) (h : advance L s = .ok t) :
    t.BufferCoherent := by
  obtain ⟨-, rfl⟩ | ⟨hFull, hIndex, rfl⟩ | ⟨-, hIndex, hDrain⟩ := advance_ok h
  · exact hs
  · obtain ⟨hCapacity, hLength, hUnread, -⟩ := hs
    have hLoaded := loadChannels_index (L := L) (hUnread hFull).le
    refine ⟨by simpa using hCapacity, by simpa using hLength, fun _ => ?_, by simp [hFull]⟩
    rw [loadChannels_params]
    omega
  · obtain ⟨hCapacity, hLength, -, -⟩ := hs
    exact drain_bufferCoherent hDrain (by simpa using hCapacity) (by simpa using hLength) (by simpa using hIndex)

theorem drain_sourceInRange {s t : State} (hs : s.SourceInRange) (h : drain s = .ok t) : t.SourceInRange := by
  obtain ⟨-, rfl⟩ | ⟨-, u, hFill, rfl⟩ := drain_ok h
  · simpa [State.SourceInRange] using hs
  · simpa [State.SourceInRange] using fill_sourceInRange hFill hs

theorem advance_sourceInRange {L : BitVec 6} {s t : State} (hs : s.SourceInRange) (h : advance L s = .ok t) :
    t.SourceInRange := by
  obtain ⟨-, rfl⟩ | ⟨-, -, rfl⟩ | ⟨-, -, hDrain⟩ := advance_ok h
  · exact hs
  · simpa [State.SourceInRange] using hs
  · exact drain_sourceInRange (by simpa [State.SourceInRange] using hs) hDrain

theorem advance_inv {L : BitVec 6} {s t : State} (hInv : s.Inv) (hL : s.chainLength = some L) (h : advance L s = .ok t) : t.Inv :=
  hInv.of_advance h (advance_registersConfined hInv.registers hL h) (advance_bufferCoherent hInv.buffer h)
    (advance_sourceInRange hInv.source h)

/-! ### The tick -/

section
variable {s : State} {L : BitVec 6} {p : Word} (hInv : s.Inv) (hBegun : s.lifecycle = .begun L p)
include hInv hBegun

/-- A rising half shifts confined values in and counts a bit below `L` (R141, R147). -/
theorem risingTick_inv (hRising : s.phase = .rising) (d : Lanes Bool) : (risingTick L d s).Inv := by
  have hCount := ((clockInStep_iff hBegun).mp hInv.clock).2 hRising
  have hSum : (s.bitCount + 1).toNat ≤ L.toNat := by
    rw [BitVec.toNat_add]
    exact (Nat.mod_le _ _).trans hCount
  exact { hInv with
    registers := hInv.registers.of_sr (chainLength_of_begun hBegun) rfl fun i => by
      rw [risingTick_sr, laneGet_zip]
      exact confined_maskTo L _
    clock := (clockInStep_iff (s := risingTick L d s) hBegun).mpr ⟨hSum, nofun⟩ }

/-- A falling half inside a word leaves `bitCount` below `L`, because it was not `L` (R147). -/
theorem driveFalling_inv (hMidword : s.bitCount ≠ L) : (driveFalling L s).Inv := by
  have hle := ((clockInStep_iff hBegun).mp hInv.clock).1
  have hne : s.bitCount.toNat ≠ L.toNat := mt BitVec.eq_of_toNat_eq hMidword
  exact { hInv with clock := (clockInStep_iff (s := driveFalling L s) hBegun).mpr ⟨hle, fun _ => lt_of_le_of_ne hle hne⟩ }

/-- A completed word starts over at `bitCount = 0`, below every legal `L` (R145, R147). -/
theorem completeWord_inv : (completeWord (driveFalling L s)).Inv := by
  have hL := hInv.chainLength_legal (chainLength_of_begun hBegun)
  exact { hInv with
    clock := (clockInStep_iff (s := completeWord (driveFalling L s)) hBegun).mpr ⟨Nat.zero_le _, fun _ => hL.1⟩ }

theorem fallingTick_inv {t : State} (h : fallingTick L s = .ok t) : t.Inv := by
  obtain ⟨hMidword, rfl⟩ | ⟨-, hAdvance⟩ := fallingTick_ok h
  · exact driveFalling_inv hInv hBegun hMidword
  · exact advance_inv (completeWord_inv hInv hBegun) (chainLength_of_begun hBegun) hAdvance

end

/-- Every tick keeps the invariant. -/
theorem tick_inv {s t : State} {d : Lanes Bool} (hInv : s.Inv) (h : tick d s = .next t) : t.Inv := by
  obtain ⟨L, p, hBegun, ⟨-, rfl⟩ | ⟨-, hRising, rfl⟩ | ⟨-, -, hTick⟩⟩ := tick_next h
  · exact hInv
  · exact risingTick_inv hInv hBegun hRising d
  · exact fallingTick_inv hInv hBegun hTick

/-! ### The commands -/

section
variable {s : State} (hInv : s.Inv)
include hInv

/-- The clamped length is legal, and the registers of an unconfigured bank are 0 (R100). -/
theorem configure_inv {len : Word} (hUnconfigured : s.lifecycle = .unconfigured) (hLen : len ≠ 0) :
    State.Inv { s with lifecycle := .configured (clampLength len) } := by
  have hSr : s.sr = laneAll 0 := by simpa only [State.RegistersConfined, State.chainLength, hUnconfigured] using hInv.registers
  have hPos : len.toNat ≠ 0 := mt (BitVec.eq_of_toNat_eq (y := 0)) hLen
  have hClamp := clampLength_toNat len
  have hLegal : 1 ≤ (clampLength len).toNat ∧ (clampLength len).toNat ≤ Config.maxChain := by
    simp only [Config.maxChain]
    omega
  exact { hInv with
    registers := (registersConfined_iff rfl).mpr ⟨hLegal, fun i => by simp [hSr]⟩
    clock := by simpa only [State.ClockInStep, hUnconfigured] using hInv.clock
    enables := by simpa only [State.EnablesHeld, hUnconfigured] using hInv.enables }

/-- BEGIN finds no bit shifted yet, and drives the enables (R103). -/
theorem begin_inv {L : BitVec 6} (period : Word) (hConfigured : s.lifecycle = .configured L) :
    State.Inv { s with lifecycle := .begun L period, enN := laneAll .low } := by
  have hL : s.chainLength = some L := by simp only [State.chainLength, hConfigured]
  obtain ⟨hCount, -⟩ : s.bitCount = 0 ∧ _ := by simpa only [State.ClockInStep, hConfigured] using hInv.clock
  have hPos := (hInv.chainLength_legal hL).1
  exact { hInv with
    registers := (registersConfined_iff rfl).mpr ((registersConfined_iff hL).mp hInv.registers)
    clock := (clockInStep_iff rfl).mpr (by simp [hCount]; omega)
    enables := rfl }

/-- RUN takes `bitCount` back to 0, which is in step with every legal `L` (R106). -/
theorem run_inv {L : BitVec 6} (hL : s.chainLength = some L) :
    State.Inv { s with run := .running, scanComplete := false, bitCount := 0 } := by
  refine { hInv with clock := ?_ }
  have hClock := hInv.clock
  cases hLifecycle : s.lifecycle with
  | unconfigured => simp only [State.chainLength, hLifecycle, reduceCtorEq] at hL
  | configured L' =>
    simp only [State.ClockInStep, hLifecycle] at hClock ⊢
    exact ⟨trivial, hClock.2⟩
  | begun L' p =>
    have hPos := (hInv.chainLength_legal (chainLength_of_begun hLifecycle)).1
    exact (clockInStep_iff rfl).mpr ⟨Nat.zero_le _, fun _ => hPos⟩

theorem clear_inv {L : BitVec 6} (hL : s.chainLength = some L) :
    State.Inv { s with sr := laneAll 0, srcPtr := 0, remaining := 0, index := 0, empty := true, scanComplete := false } := by
  obtain ⟨hCapacity, hLength, -, -⟩ := hInv.buffer
  exact { hInv with
    registers := hInv.registers.of_sr hL rfl fun i => by simp
    buffer := ⟨hCapacity, hLength, nofun, fun _ => ⟨.inl rfl, rfl⟩⟩
    source := Nat.zero_le _ }

theorem loadWords_inv {L : BitVec 6} (ws : Lanes Word) (hL : s.chainLength = some L) :
    State.Inv { s with sr := laneMap (maskTo L) ws, scanComplete := false } :=
  { hInv with registers := hInv.registers.of_sr hL rfl fun i => by simp }

/-- The fill of LOAD_DATA starts from the operands' range, which the command has checked (R122). -/
theorem loadData_inv {src len : Word} {t : State} (hRange : rangeFits src.toNat len.toNat = true)
    (hFill : fill { s with srcPtr := src, remaining := len, index := 0 } = .ok t) : t.Inv := by
  obtain ⟨hCapacity, hLength, -, -⟩ := hInv.buffer
  have hBuffer := fill_bufferCoherent hFill hCapacity hLength
  have hSource := fill_sourceInRange hFill ((rangeFits_iff _ _).mp hRange)
  rw [fill_frame hFill] at hBuffer hSource ⊢
  exact { hInv with buffer := hBuffer, source := hSource }

/-- Every command keeps the invariant. -/
theorem exec_inv {i : Instr} {t : State} (h : exec i s = .next t) : t.Inv := by
  obtain ⟨r, w, rfl⟩ | hEffect := exec_next h
  · exact refuse_inv hInv r w
  cases i with
  | configure len => obtain ⟨hUnconfigured, hLen, rfl⟩ := hEffect; exact configure_inv hInv hUnconfigured hLen
  | beginScan period => obtain ⟨L, hConfigured, rfl⟩ := hEffect; exact begin_inv hInv period hConfigured
  | run => obtain ⟨L, hL, rfl⟩ := hEffect; exact run_inv hInv hL
  | stop => obtain ⟨L, -, rfl⟩ := hEffect; exact { hInv with }
  | clear => obtain ⟨L, hL, rfl⟩ := hEffect; exact clear_inv hInv hL
  | loadWords w0 w1 w2 => obtain ⟨L, hL, rfl⟩ := hEffect; exact loadWords_inv hInv _ hL
  | loadData src len =>
    obtain ⟨L, -, ⟨-, rfl⟩ | ⟨-, hRange, hFill⟩⟩ := hEffect
    · exact hInv
    · exact loadData_inv hInv hRange hFill
  | isComplete => obtain ⟨L, -, rfl⟩ := hEffect; exact respond_inv hInv _
  | getOutput => obtain ⟨L, -, rfl⟩ := hEffect; exact respond_inv hInv _
  | verify ref len => obtain ⟨L, -, b, rfl, -⟩ := hEffect; exact respond_inv hInv _
  | setObserver obs => obtain ⟨L, -, -, rfl⟩ := hEffect; exact { hInv with }

end

/-! ### The step -/

/-- Settles O11: whichever input the step takes, its effect keeps the invariant, and so does recording the ports. -/
theorem stepKeepsInv : Obligations.StepKeepsInv := by
  intro s t hInv h
  obtain ⟨-, rfl⟩ | ⟨_, _, rest, e, -, -, rfl⟩ | ⟨_, _, rest, i, left, u, -, -, hExec, rfl⟩ | ⟨d, rest, u, -, hTick, rfl⟩ |
    ⟨a, v, rest, -, -, rfl⟩ := step_next h
  · exact hInv
  · exact recordPorts_inv (refuse_inv (inputs_inv hInv rest) _ _)
  · exact recordPorts_inv (exec_inv (inputs_inv hInv _) hExec)
  · exact recordPorts_inv (tick_inv (inputs_inv hInv rest) hTick)
  · exact hostMem_inv (inputs_inv hInv rest) a v

end Sys2Proof.Machine
end

section
/-! PROOFS. The lifecycle commands CONFIGURE, BEGIN, RUN and CLEAR, and the refusal of an unconfigured bank (40_lifecycle.md). -/

namespace Sys2Proof.Machine

/-! ### CONFIGURE -/

theorem exec_configure_of_unconfigured {s : State} {len : Word} (h : s.lifecycle = .unconfigured) (hLen : len ≠ 0) :
    exec (.configure len) s = .next { s with lifecycle := .configured (clampLength len) } := by
  simp only [exec, execConfigure, h, if_neg hLen]

theorem exec_configure_of_zero {s : State} (h : s.lifecycle = .unconfigured) :
    exec (.configure 0) s = .next (refuse .zeroChain 0 s) := by
  simp only [exec, execConfigure, h, if_true]

theorem exec_configure_of_configured {s : State} {L : BitVec 6} (len : Word) (h : s.chainLength = some L) :
    exec (.configure len) s = .next (refuse .reconfigure len s) := by
  cases hLifecycle : s.lifecycle with
  | unconfigured => simp only [State.chainLength, hLifecycle, reduceCtorEq] at h
  | configured L' => simp only [exec, execConfigure, hLifecycle]
  | begun L' p => simp only [exec, execConfigure, hLifecycle]

/-- Settles O18: the stored length is the clamped operand. -/
theorem configureStoresClampedLength : Obligations.ConfigureStoresClampedLength := fun _ len hUnconfigured hLen =>
  ⟨clampLength len, clampLength_toNat len, exec_configure_of_unconfigured hUnconfigured hLen⟩

/-- Settles O19: a chain length makes it a second CONFIGURE, and without one only `LEN = 0` is refused. -/
theorem configureRefusals : Obligations.ConfigureRefusals := fun _ len =>
  ⟨fun _ hL => exec_configure_of_configured len hL, fun hUnconfigured hZero => hZero ▸ exec_configure_of_zero hUnconfigured⟩

/-! ### BEGIN -/

theorem exec_begin_of_configured {s : State} {L : BitVec 6} (period : Word) (h : s.lifecycle = .configured L) :
    exec (.beginScan period) s = .next { s with lifecycle := .begun L period, enN := laneAll .low } := by
  simp only [exec, execBegin, h]

theorem header_beginScan (period : Word) : (Instr.beginScan period).header = 0x00000002 := by
  rw [Instr.header, Instr.opcode]
  decide

theorem exec_begin_of_unconfigured {s : State} (period : Word) (h : s.lifecycle = .unconfigured) :
    exec (.beginScan period) s = .next (refuse .notConfigured (Instr.beginScan period).header s) := by
  simp only [exec, execBegin, h]

theorem exec_begin_of_begun {s : State} {L : BitVec 6} {p : Word} (period : Word) (h : s.lifecycle = .begun L p) :
    exec (.beginScan period) s = .next (refuse .rebegin period s) := by
  simp only [exec, execBegin, h]

/-- Settles O20: the lifecycle carries the old chain length and the new period, and every enable is low. -/
theorem beginDrivesEnables : Obligations.BeginDrivesEnables := fun _ _ period hConfigured =>
  ⟨_, exec_begin_of_configured period hConfigured, rfl, rfl, rfl, laneGet_all _, rfl⟩

/-- Settles O21: BEGIN is refused in both of the other lifecycle states. -/
theorem beginRefusals : Obligations.BeginRefusals := fun _ period =>
  ⟨fun hUnconfigured => header_beginScan period ▸ exec_begin_of_unconfigured period hUnconfigured,
    fun _ _ hBegun => exec_begin_of_begun period hBegun⟩

/-! ### RUN and CLEAR -/

theorem exec_run_of_configured {s : State} {L : BitVec 6} (h : s.chainLength = some L) :
    exec .run s = .next { s with run := .running, scanComplete := false, bitCount := 0 } :=
  whenConfigured_some h

/-- Settles O22: RUN writes three fields, and `phase` is not among them. -/
theorem runRealignsTheWord : Obligations.RunRealignsTheWord := fun _ _ hL =>
  ⟨_, exec_run_of_configured hL, rfl, rfl, rfl, rfl, rfl⟩

theorem exec_clear_of_configured {s : State} {L : BitVec 6} (h : s.chainLength = some L) :
    exec .clear s =
      .next { s with sr := laneAll 0, srcPtr := 0, remaining := 0, index := 0, empty := true, scanComplete := false } :=
  whenConfigured_some h

/-- Settles O24: the cleared bank keeps its chain length, so a second CLEAR passes the gate and writes the same values again. -/
theorem clearIsIdempotent : Obligations.ClearIsIdempotent := by
  intro s L hL
  refine ⟨_, exec_clear_of_configured hL, laneGet_all _, rfl, rfl, rfl, rfl, rfl, rfl, ?_⟩
  exact exec_clear_of_configured ((chainLength_congr rfl).trans hL)

/-! ### Before CONFIGURE -/

/-- Every command but CONFIGURE is refused while there is no configuration (R112). -/
theorem exec_of_unconfigured {s : State} {i : Instr} (h : s.lifecycle = .unconfigured) (hi : i.opcode ≠ .configure) :
    exec i s = .next (refuse .notConfigured i.header s) := by
  have hNone := (chainLength_eq_none_iff s).mpr h
  cases i with
  | configure len => exact absurd rfl hi
  | beginScan period => exact exec_begin_of_unconfigured period h
  | run | stop | clear | loadWords | loadData | isComplete | getOutput | verify | setObserver => exact whenConfigured_none hNone

/-- Settles O25: `refuse` writes the mark and its record alone. -/
theorem unconfiguredRefusesEveryOtherCommand : Obligations.UnconfiguredRefusesEveryOtherCommand :=
  fun _ _ hUnconfigured hi => exec_of_unconfigured hUnconfigured hi

end Sys2Proof.Machine
end

section
/-! PROOFS. The loading commands LOAD_WORDS and LOAD_DATA, and the end of the source range (41_data_loading.md). -/

namespace Sys2Proof.Machine

/-! ### LOAD_WORDS -/

theorem exec_loadWords_of_configured {s : State} {L : BitVec 6} (w0 w1 w2 : Word) (h : s.chainLength = some L) :
    exec (.loadWords w0 w1 w2) s =
      .next { s with sr := laneMap (maskTo L) { ch0 := w0, ch1 := w1, ch2 := w2 }, scanComplete := false } :=
  whenConfigured_some h

/-- Settles O26: masking to `L` bits is the remainder by `2^L`. -/
theorem loadWordsTruncates : Obligations.LoadWordsTruncates := fun _ L w0 w1 w2 hL =>
  ⟨_, exec_loadWords_of_configured w0 w1 w2 hL, rfl, rfl, maskTo_toNat L w0, maskTo_toNat L w1, maskTo_toNat L w2⟩

/-! ### LOAD_DATA -/

theorem exec_loadData_of_configured {s : State} {L : BitVec 6} (src len : Word) (h : s.chainLength = some L) :
    exec (.loadData src len) s = startTransfer src len s :=
  whenConfigured_some h

/-- Settles O28: the length is looked at first. -/
theorem loadDataZeroIsNoOp : Obligations.LoadDataZeroIsNoOp := by
  intro s L src hL
  rw [exec_loadData_of_configured src 0 hL, startTransfer, if_pos rfl]

/-- A LOAD_DATA of `LEN >= 1` bytes that answers a next state has filled the first chunk of a range below the top (R122). -/
theorem fill_of_exec_loadData {s t : State} {L : BitVec 6} {src len : Word} (hL : s.chainLength = some L) (hLen : len ≠ 0)
    (h : exec (.loadData src len) s = .next t) :
    rangeFits src.toNat len.toNat = true ∧ fill { s with srcPtr := src, remaining := len, index := 0 } = .ok t := by
  rw [exec_loadData_of_configured src len hL] at h
  obtain ⟨hZero, -⟩ | ⟨-, hRange, hFill⟩ := startTransfer_next h
  · exact absurd hZero hLen
  · exact ⟨hRange, hFill⟩

/-- Settles O29: the range check fails, or the first fill meets the byte. -/
theorem loadDataStuck : Obligations.LoadDataStuck := by
  intro s L src len hL hLen hCause
  rw [exec_loadData_of_configured src len hL, startTransfer, if_neg hLen]
  split
  · rename_i hRange
    have hRange := (rangeFits_iff _ _).mp hRange
    obtain ⟨k, hk, hNone⟩ := hCause.resolve_left (by omega)
    obtain ⟨a, hFill⟩ := fill_stuck (s := { s with srcPtr := src, remaining := len, index := 0 }) hk hNone
    exact ⟨a, by rw [hFill, answerOf]⟩
  · exact ⟨_, rfl⟩

/-! ### The end of the source range -/

/-- A fill moves the pointer forward by what it takes off the length (R128). -/
theorem fill_sourceEnd {s t : State} (h : fill s = .ok t) : t.srcPtr + t.remaining = s.srcPtr + s.remaining := by
  obtain ⟨bytes, -, rfl⟩ := fill_ok h
  simp only
  abel

theorem advance_sourceEnd {L : BitVec 6} {s t : State} (h : advance L s = .ok t) :
    t.srcPtr + t.remaining = s.srcPtr + s.remaining := by
  obtain ⟨-, rfl⟩ | ⟨-, -, rfl⟩ | ⟨-, -, hDrain⟩ := advance_ok h
  · rfl
  · simp
  obtain ⟨-, rfl⟩ | ⟨-, u, hFill, rfl⟩ := drain_ok hDrain
  · simp
  · simpa using fill_sourceEnd hFill

/-- Settles O30: LOAD_DATA's fill starts from the operands, and of a tick only the refill touches the range. -/
theorem sourceEndIsKept : Obligations.SourceEndIsKept := by
  refine ⟨fun s t L src len hL hLen h => fill_sourceEnd (fill_of_exec_loadData hL hLen h).2, fun s t d h => ?_⟩
  obtain ⟨L, p, -, ⟨-, rfl⟩ | ⟨-, -, rfl⟩ | ⟨-, -, hTick⟩⟩ := tick_next h
  · rfl
  · rfl
  obtain ⟨-, rfl⟩ | ⟨-, hAdvance⟩ := fallingTick_ok hTick
  · rfl
  · exact (advance_sourceEnd hAdvance :)

end Sys2Proof.Machine
end

section
/-! PROOFS. GET_OUTPUT, VERIFY and SET_OBSERVER, and the packing of the internal registers (44_completion_verify.md,
43_chunk_advance.md, 10_state.md section 9). -/

namespace Sys2Proof.Machine

/-! ### GET_OUTPUT -/

/-- Settles O49: past the gate the response is the one change. -/
theorem getOutputSnapshots : Obligations.GetOutputSnapshots := fun _ _ hL => whenConfigured_some hL

/-! ### VERIFY: the comparison -/

/-- Where the comparison answers, it has read every byte of both ranges, and its answer says whether all agree (R182). -/
theorem verifyBytes_ok {ref : Nat} {s : State} {b : Bool} (h : verifyBytes ref s = .ok b) :
    (∀ k, k < s.remaining.toNat + s.index → memRead s (ref + k) ≠ none) ∧
    (∀ k, k < s.remaining.toNat → memRead s (s.srcPtr.toNat + k) ≠ none) ∧
    (b = true ↔
      (∀ k, k < s.index → memRead s (ref + k) = some (bufAt s k)) ∧
      (∀ k, k < s.remaining.toNat → memRead s (s.srcPtr.toNat + k) = memRead s (ref + s.index + k))) := by
  unfold verifyBytes at h
  split at h
  · cases h
  rename_i first hFirst
  split at h
  · cases h
  rename_i second hSecond
  cases h
  obtain ⟨hBufferRead, hFirstIff⟩ := verifyBuffer_ok hFirst
  obtain ⟨hSourceRead, hSecondIff⟩ := verifySource_ok hSecond
  refine ⟨fun k hk => ?_, fun k hk => (hSourceRead k hk).1, ?_⟩
  · rcases Nat.lt_or_ge k s.index with hLow | hHigh
    · exact hBufferRead k hLow
    · obtain ⟨j, rfl⟩ := Nat.exists_eq_add_of_le hHigh
      rw [← Nat.add_assoc]
      exact (hSourceRead j (by omega)).2
  · rw [Bool.and_eq_true, hFirstIff, hSecondIff]
    simp only [Nat.zero_add]

/-- The comparison answers where every byte of both ranges is admitted. -/
theorem verifyBytes_total {ref : Nat} {s : State} (hRef : ∀ k, k < s.remaining.toNat + s.index → memRead s (ref + k) ≠ none)
    (hSrc : ∀ k, k < s.remaining.toNat → memRead s (s.srcPtr.toNat + k) ≠ none) : ∃ b, verifyBytes ref s = .ok b := by
  obtain ⟨first, hFirst⟩ := verifyBuffer_total (k := 0) (n := s.index) fun j hj => hRef j (by omega)
  obtain ⟨second, hSecond⟩ := verifySource_total (src := s.srcPtr.toNat) (ref := ref + s.index) (n := s.remaining.toNat) fun j hj =>
    ⟨hSrc j hj, Nat.add_assoc .. ▸ hRef (s.index + j) (by omega)⟩
  exact ⟨first && second, by simp only [verifyBytes, hFirst, hSecond]⟩

/-- The comparison is stuck at an address. -/
theorem verifyBytes_error {ref : Nat} {s : State} {f : Fault} (h : verifyBytes ref s = .error f) : ∃ a, f = .stuckMem a := by
  unfold verifyBytes at h
  split at h
  · rename_i hFirst; cases h; exact verifyBuffer_error hFirst
  split at h
  · rename_i hSecond; cases h; exact verifySource_error hSecond
  · cases h

theorem verifyBuffer_congr {s t : State} (hMem : t.mem = s.mem) (hBuf : t.buf = s.buf) (ref k n : Nat) :
    verifyBuffer t ref k n = verifyBuffer s ref k n := by
  induction n generalizing ref k with
  | zero => rfl
  | succ n ih => simp only [verifyBuffer, memRead_congr hMem, bufAt_congr hBuf, ih]

theorem verifySource_congr {s t : State} (hMem : t.mem = s.mem) (src ref n : Nat) :
    verifySource t src ref n = verifySource s src ref n := by
  induction n generalizing src ref with
  | zero => rfl
  | succ n ih => simp only [verifySource, memRead_congr hMem, ih]

/-! ### VERIFY: the command -/

theorem exec_verify_of_configured {s : State} {L : BitVec 6} (ref len : Word) (h : s.chainLength = some L) :
    exec (.verify ref len) s = compareReference ref len s :=
  whenConfigured_some h

theorem compareReference_of_wrongLength {ref len : Word} {s : State} (h : len.toNat ≠ s.remaining.toNat + s.index) :
    compareReference ref len s = .next (respond [boolWord false] s) := by
  rw [compareReference, if_pos h]

section
variable {ref len : Word} {s : State} (hLength : len.toNat = s.remaining.toNat + s.index)
include hLength

theorem compareReference_of_top (h : 2 ^ 32 < ref.toNat + len.toNat) :
    compareReference ref len s = .fault (.stuckMem Config.addressTop) := by
  have hRange : ¬ rangeFits ref.toNat len.toNat = true := by rw [rangeFits_iff]; omega
  rw [compareReference, if_neg (not_not.mpr hLength), if_neg hRange]

theorem compareReference_of_ok {b : Bool} (hRange : ref.toNat + len.toNat ≤ 2 ^ 32) (h : verifyBytes ref.toNat s = .ok b) :
    compareReference ref len s = .next (respond [boolWord b] s) := by
  rw [compareReference, if_neg (not_not.mpr hLength), if_pos ((rangeFits_iff _ _).mpr hRange), h]

theorem compareReference_of_error {f : Fault} (hRange : ref.toNat + len.toNat ≤ 2 ^ 32) (h : verifyBytes ref.toNat s = .error f) :
    compareReference ref len s = .fault f := by
  rw [compareReference, if_neg (not_not.mpr hLength), if_pos ((rangeFits_iff _ _).mpr hRange), h]

end

/-- Settles O50: the length is compared before anything is read. -/
theorem verifyWrongLengthAnswersZero : Obligations.VerifyWrongLengthAnswersZero := by
  intro s m L ref len hL hLength
  have hSame : State.chainLength { s with mem := m } = some L := (chainLength_congr rfl).trans hL
  rw [exec_verify_of_configured ref len hSame, compareReference_of_wrongLength (s := { s with mem := m }) hLength]
  rfl

/-- Settles O51: every byte is admitted, so the comparison answers, and its answer is the response word. -/
theorem verifyComparesEveryByte : Obligations.VerifyComparesEveryByte := by
  intro s L ref len hL hLength hRange hRef hSrc
  obtain ⟨b, hVerify⟩ := verifyBytes_total (hLength ▸ hRef) hSrc
  obtain ⟨-, -, hAgree⟩ := verifyBytes_ok hVerify
  refine ⟨boolWord b, ?_, by cases b <;> decide, ?_⟩
  · rw [exec_verify_of_configured ref len hL, compareReference_of_ok hLength hRange hVerify]
    rfl
  · rw [← hAgree]
    cases b <;> decide

/-- Settles O52: the range check fails, or the comparison cannot answer, because an answer would have read every byte. -/
theorem verifyStuck : Obligations.VerifyStuck := by
  intro s L ref len hL hLength hCause
  rw [exec_verify_of_configured ref len hL]
  rcases Nat.lt_or_ge (2 ^ 32) (ref.toNat + len.toNat) with hTop | hRange
  · exact ⟨_, compareReference_of_top hLength hTop⟩
  cases hVerify : verifyBytes ref.toNat s with
  | error f =>
    obtain ⟨a, rfl⟩ := verifyBytes_error hVerify
    exact ⟨a, compareReference_of_error hLength hRange hVerify⟩
  | ok b =>
    obtain ⟨hRef, hSrc, -⟩ := verifyBytes_ok hVerify
    obtain hTop | ⟨k, hk, hNone⟩ | ⟨k, hk, hNone⟩ := hCause
    · omega
    · exact absurd hNone (hRef k (hLength ▸ hk))
    · exact absurd hNone (hSrc k hk)

/-! ### The readers write nothing -/

/-- A reader that answers a next state was refused on an unconfigured bank, or responded. -/
theorem exec_reader_next {s t : State} {i : Instr} (hReader : i.opcode = .isComplete ∨ i.opcode = .getOutput ∨ i.opcode = .verify)
    (h : exec i s = .next t) :
    (s.chainLength = none ∧ t = refuse .notConfigured i.header s) ∨ (s.chainLength ≠ none ∧ ∃ words, t = respond words s) := by
  by_cases hNone : s.chainLength = none
  · have hi : i.opcode ≠ .configure := by rcases hReader with h | h | h <;> rw [h] <;> decide
    rw [exec_of_unconfigured ((chainLength_eq_none_iff s).mp hNone) hi] at h
    cases h
    exact .inl ⟨hNone, rfl⟩
  obtain ⟨L, hL⟩ := Option.ne_none_iff_exists'.mp hNone
  refine .inr ⟨hNone, ?_⟩
  cases i with
  | isComplete => rw [exec_isComplete_of_configured hL] at h; cases h; exact ⟨_, rfl⟩
  | getOutput => rw [getOutputSnapshots s L hL] at h; cases h; exact ⟨_, rfl⟩
  | verify ref len =>
    rw [exec_verify_of_configured ref len hL] at h
    obtain ⟨b, rfl, -⟩ := compareReference_next h
    exact ⟨_, rfl⟩
  | configure | beginScan | run | stop | clear | loadWords | loadData | setObserver => simp [Instr.opcode] at hReader

/-- Settles O53: a response writes the history, a refusal the mark and its record, and the chain length decides between them. -/
theorem readersWriteNothing : Obligations.ReadersWriteNothing := by
  intro s t i hReader h
  obtain ⟨hNone, rfl⟩ | ⟨hSome, words, rfl⟩ := exec_reader_next hReader h
  · exact ⟨fun hSome => absurd hNone hSome, fun _ => rfl⟩
  · exact ⟨fun _ => ⟨words, rfl⟩, fun hNone => absurd hNone hSome⟩

/-! ### VERIFY never reads the registers -/

/-- An answer with its next state changed. -/
def mapNext (f : State → State) : Answer → Answer
  | .next s => .next (f s)
  | .fault r => .fault r
  | .refused r => .refused r

@[simp] theorem mapNext_next (f : State → State) (s : State) : mapNext f (.next s) = .next (f s) := rfl
@[simp] theorem mapNext_fault (f : State → State) (r : Fault) : mapNext f (.fault r) = .fault r := rfl
@[simp] theorem mapNext_refused (f : State → State) (r : Refusal) : mapNext f (.refused r) = .refused r := rfl

theorem verifyBytes_sr (ref : Nat) (s : State) (v : Lanes Word) : verifyBytes ref { s with sr := v } = verifyBytes ref s := by
  have hBuffer := verifyBuffer_congr (s := s) (t := { s with sr := v }) rfl rfl
  have hSource := verifySource_congr (s := s) (t := { s with sr := v }) rfl
  simp only [verifyBytes, hBuffer, hSource]

theorem compareReference_sr (ref len : Word) (s : State) (v : Lanes Word) :
    compareReference ref len { s with sr := v } = mapNext (fun t => { t with sr := v }) (compareReference ref len s) := by
  simp only [compareReference, verifyBytes_sr]
  split
  · rfl
  split
  · cases verifyBytes ref.toNat s <;> rfl
  · rfl

/-- VERIFY of other registers is the same VERIFY, with those registers kept. -/
theorem exec_verify_sr (ref len : Word) (s : State) (v : Lanes Word) :
    exec (.verify ref len) { s with sr := v } = mapNext (fun t => { t with sr := v }) (exec (.verify ref len) s) := by
  have hSame : State.chainLength { s with sr := v } = s.chainLength := chainLength_congr rfl
  cases hL : s.chainLength with
  | none =>
    have hUnconfigured := (chainLength_eq_none_iff s).mp hL
    have hVerify : (Instr.verify ref len).opcode ≠ .configure := nofun
    rw [exec_of_unconfigured hUnconfigured hVerify, exec_of_unconfigured (s := { s with sr := v }) hUnconfigured hVerify]
    rfl
  | some L => rw [exec_verify_of_configured ref len hL, exec_verify_of_configured ref len (hSame.trans hL), compareReference_sr]

/-- Settles O54: the equation of `exec_verify_sr`, read for a next state and for a fault. -/
theorem verifyIgnoresRegisters : Obligations.VerifyIgnoresRegisters := fun s v ref len =>
  ⟨fun t h => by rw [exec_verify_sr, h, mapNext_next], fun f h => by rw [exec_verify_sr, h, mapNext_fault]⟩

/-! ### SET_OBSERVER -/

/-- The reserved bits of `OBS` are clear exactly for 0 and 1 (R87). -/
theorem obsReservedClear_iff (obs : Word) : obsReservedClear obs = true ↔ obs.toNat ≤ 1 := by
  have hlt := obs.isLt
  rw [obsReservedClear, decide_eq_true_eq, ← BitVec.toNat_inj, BitVec.extractLsb'_toNat, Nat.shiftRight_eq_div_pow]
  change _ = 0 ↔ _
  omega

/-- Bit 0 of `OBS`, where it is 0 or 1 (R167). -/
theorem obsBit_of_le {obs : Word} (h : obs.toNat ≤ 1) : obsBit obs = decide (obs.toNat = 1) := by
  rw [obsBit, ← BitVec.testBit_toNat, Nat.testBit_zero, Nat.mod_eq_of_lt (by omega)]

theorem exec_setObserver_of_configured {s : State} {L : BitVec 6} (obs : Word) (h : s.chainLength = some L) :
    exec (.setObserver obs) s =
      if obsReservedClear obs then .next { s with obsEn := obsBit obs } else .next (refuse .reservedBits obs s) :=
  whenConfigured_some h

/-- Settles O55: the reserved bits are clear, and bit 0 is the operand. -/
theorem setObserverWritesFlag : Obligations.SetObserverWritesFlag := by
  intro s L obs hL hObs
  rw [exec_setObserver_of_configured obs hL, if_pos ((obsReservedClear_iff obs).mpr hObs), obsBit_of_le hObs]

/-- Settles O56: a reserved bit is set. -/
theorem setObserverRefusesReservedBits : Obligations.SetObserverRefusesReservedBits := by
  intro s L obs hL hObs
  have hSet : ¬ obsReservedClear obs = true := by rw [obsReservedClear_iff]; omega
  rw [exec_setObserver_of_configured obs hL, if_neg hSet, refuse]

/-! ### The internal registers -/

/-- The fields of CFG (R44). -/
theorem regCfg_fields (s : State) :
    (regCfg s).extractLsb' 8 24 = 0 ∧ (regCfg s).extractLsb' 2 6 = s.chainLength.getD 0 ∧
      (regCfg s).extractLsb' 0 2 = cfgCode s.cfgState := by
  refine ⟨?_, ?_, ?_⟩
  · rw [regCfg, BitVec.extractLsb'_append_eq_of_le (by decide)]
    exact BitVec.extractLsb'_eq_self
  · rw [regCfg, BitVec.extractLsb'_append_eq_of_add_le (by decide), BitVec.extractLsb'_append_eq_of_le (by decide)]
    exact BitVec.extractLsb'_eq_self
  · rw [regCfg, BitVec.extractLsb'_append_eq_of_add_le (by decide), BitVec.extractLsb'_append_eq_of_add_le (by decide)]
    exact BitVec.extractLsb'_eq_self

/-- The two wider fields of CTRL (R44). -/
theorem regCtrl_fields (s : State) : (regCtrl s).extractLsb' 11 21 = 0 ∧ (regCtrl s).extractLsb' 3 6 = s.bitCount := by
  refine ⟨?_, ?_⟩
  · rw [regCtrl, BitVec.extractLsb'_append_eq_of_le (by decide)]
    exact BitVec.extractLsb'_eq_self
  · rw [regCtrl, BitVec.extractLsb'_append_eq_of_add_le (by decide), BitVec.extractLsb'_append_eq_of_add_le (by decide),
      BitVec.extractLsb'_append_eq_of_add_le (by decide), BitVec.extractLsb'_append_eq_of_le (by decide)]
    exact BitVec.extractLsb'_eq_self

/-- The one-bit fields of CTRL (R44). -/
theorem regCtrl_bits (s : State) :
    (regCtrl s).getLsbD 10 = s.empty ∧ (regCtrl s).getLsbD 9 = s.scanComplete ∧ (regCtrl s).getLsbD 2 = phaseBit s.phase ∧
      (regCtrl s).getLsbD 1 = s.obsEn ∧ (regCtrl s).getLsbD 0 = runBit s.run := by
  refine ⟨?_, ?_, ?_, ?_, ?_⟩ <;> rw [regCtrl, BitVec.getLsbD_append, if_pos (by decide)]
  · rw [BitVec.getLsbD_append, if_neg (by decide), BitVec.getLsbD_ofBool]
    rfl
  · rw [BitVec.getLsbD_append, if_pos (by decide), BitVec.getLsbD_append, if_neg (by decide), BitVec.getLsbD_ofBool]
    rfl
  · iterate 3 rw [BitVec.getLsbD_append, if_pos (by decide)]
    rw [BitVec.getLsbD_append, if_neg (by decide), BitVec.getLsbD_ofBool]
    rfl
  · iterate 4 rw [BitVec.getLsbD_append, if_pos (by decide)]
    rw [BitVec.getLsbD_append, if_neg (by decide), BitVec.getLsbD_ofBool]
    rfl
  · iterate 5 rw [BitVec.getLsbD_append, if_pos (by decide)]
    rw [BitVec.getLsbD_ofBool]
    rfl

/-- `IDX_W` bits hold every index up to `C` (R37). -/
theorem regIndex_toNat {s : State} (h : s.index ≤ s.params.capacity) : (regIndex s).toNat = s.index := by
  have hWidth : s.params.capacity + 1 ≤ 2 ^ indexWidth s.params.capacity := Nat.le_pow_clog (by decide) _
  rw [regIndex, BitVec.toNat_ofNat]
  exact Nat.mod_eq_of_lt (by omega)

/-- The invariant bounds the index by the capacity (R37). -/
theorem State.Inv.index_le {s : State} (hInv : s.Inv) : s.index ≤ s.params.capacity := by
  obtain ⟨-, -, hUnread, hDrained⟩ := hInv.buffer
  cases hEmpty : s.empty with
  | false => exact (hUnread hEmpty).le
  | true => obtain ⟨hZero | hEnd, -⟩ := hDrained hEmpty <;> omega

/-- Settles O57: each field is cut out of the concatenation that packs it, and the invariant bounds the index. -/
theorem internalRegisterFields : Obligations.InternalRegisterFields := by
  intro s
  obtain ⟨hReserved, hLength, hState⟩ := regCfg_fields s
  obtain ⟨hZero, hCount⟩ := regCtrl_fields s
  obtain ⟨hEmpty, hScan, hPhase, hObs, hRun⟩ := regCtrl_bits s
  refine ⟨hReserved, hLength, ?_, hZero, hEmpty, hScan, hCount, hPhase, hObs, hRun, fun hInv => regIndex_toNat hInv.index_le⟩
  rw [hState]
  cases s.cfgState <;> rfl

end Sys2Proof.Machine
end

section
/-! PROOFS. The tick, half by half (42_clock_phase.md, 43_chunk_advance.md). -/

namespace Sys2Proof.Machine

/-! ### When a tick exists, and when it samples -/

theorem tick_of_noPeriod {s : State} (d : Lanes Bool) (h : s.period = none) : tick d s = .refused .tickNotEnabled := by
  cases hLifecycle : s.lifecycle with
  | unconfigured => simp only [tick, hLifecycle]
  | configured L => simp only [tick, hLifecycle]
  | begun L p => simp only [State.period, hLifecycle, reduceCtorEq] at h

/-- A period is stored by BEGIN alone (R29). -/
theorem begun_of_period {s : State} {p : Word} (h : s.period = some p) : ∃ L, s.lifecycle = .begun L p := by
  cases hLifecycle : s.lifecycle with
  | unconfigured => simp only [State.period, hLifecycle, reduceCtorEq] at h
  | configured L => simp only [State.period, hLifecycle, reduceCtorEq] at h
  | begun L p' =>
    simp only [State.period, hLifecycle, Option.some.injEq] at h
    exact ⟨L, h ▸ rfl⟩

/-- Settles O38: a period is stored exactly on a begun bank, and a begun bank that is Idle has nothing to do. -/
theorem tickNeedsBeginAndRun : Obligations.TickNeedsBeginAndRun := fun _ d =>
  ⟨tick_of_noPeriod d, fun _ hPeriod hIdle =>
    let ⟨_, hBegun⟩ := begun_of_period hPeriod
    tick_of_idle d hBegun hIdle⟩

/-- Settles O39: without a period there is no tick, while Idle nothing happens, and a falling half does not see the samples. -/
theorem samplesMatterOnlyOnRisingTicks : Obligations.SamplesMatterOnlyOnRisingTicks := by
  intro s d d' hNot
  cases hPeriod : s.period with
  | none => rw [tick_of_noPeriod d hPeriod, tick_of_noPeriod d' hPeriod]
  | some p =>
    obtain ⟨L, hBegun⟩ := begun_of_period hPeriod
    cases hRun : s.run with
    | idle => rw [tick_of_idle d hBegun hRun, tick_of_idle d' hBegun hRun]
    | running =>
      have hFalling : s.phase = .falling := by
        cases hPhase : s.phase with
        | rising => exact absurd ⟨hRun, hPhase⟩ hNot
        | falling => rfl
      rw [tick_of_falling d hBegun hRun hFalling, tick_of_falling d' hBegun hRun hFalling]

/-! ### The rising half -/

/-- The bit counter of six bits has room for one more bit below 63, and so below every legal `L`. -/
theorem risingTick_bitCount_toNat {s : State} (L : BitVec 6) (d : Lanes Bool) (h : s.bitCount.toNat < 63) :
    (risingTick L d s).bitCount.toNat = s.bitCount.toNat + 1 := by
  rw [risingTick_bitCount, BitVec.toNat_add]
  exact Nat.mod_eq_of_lt (Nat.succ_lt_succ h)

/-- Settles O31: the rising half's fields, with its arithmetic as numbers. -/
theorem risingTickShifts : Obligations.RisingTickShifts := by
  intro s L p d hBegun hRun hRising hL hCount
  refine ⟨_, tick_of_rising d hBegun hRun hRising, rfl, fun i => ?_, risingTick_bitCount_toNat L d hCount, ?_, rfl, rfl⟩
  · rw [risingTick_sr, laneGet_zip, shiftIn_toNat hL]
  · rw [risingTick_scanComplete, scanAfterRising]
    cases s.params.sticky <;> rfl

/-- Settles O40: a register after a rising half is one function of that register and its sample. -/
theorem lanesAreIndependent : Obligations.LanesAreIndependent := by
  intro s s' t t' L p p' d d' i hBegun hBegun' hRun hRun' hRising hRising' hSr hDin h h'
  rw [tick_of_rising d hBegun hRun hRising] at h
  rw [tick_of_rising d' hBegun' hRun' hRising'] at h'
  cases h
  cases h'
  simp only [risingTick_sr, laneGet_zip, hSr, hDin]

/-! ### The falling half -/

/-- What a falling half drives on DOUT, whether or not it completes the word. -/
theorem driveFalling_dout_level (L : BitVec 6) (s : State) (i : Channel) :
    laneGet (driveFalling L s).dout i = if (laneGet s.sr i).toNat.testBit (L.toNat - 1) then .high else .low := by
  rw [driveFalling_dout, laneGet_map, topLevel_eq]

/-- Settles O32: inside a word the falling half is `driveFalling` alone. -/
theorem fallingTickDrivesTopBits : Obligations.FallingTickDrivesTopBits := by
  intro s L p d hBegun hRun hFalling hMidword
  refine ⟨driveFalling L s, ?_, rfl, rfl, driveFalling_dout_level L s, rfl⟩
  rw [tick_of_falling d hBegun hRun hFalling, fallingTick_of_midword hMidword, answerOf]

section
variable {s : State} {L : BitVec 6} {p : Word} (d : Lanes Bool) (hBegun : s.lifecycle = .begun L p) (hRun : s.run = .running)
  (hFalling : s.phase = .falling) (hDone : s.bitCount = L)
include hBegun hRun hFalling hDone

/-- A tick that completes a word is the advancement of the driven, completed state (R145). -/
theorem tick_of_done : tick d s = answerOf (advance L (completeWord (driveFalling L s))) := by
  rw [tick_of_falling d hBegun hRun hFalling, fallingTick_of_done hDone]

theorem tick_of_done_empty (hEmpty : s.empty = true) : tick d s = .next (completeWord (driveFalling L s)) := by
  rw [tick_of_done d hBegun hRun hFalling hDone, advance_of_empty (s := completeWord (driveFalling L s)) hEmpty, answerOf]

/-- A completed word whose loads stop short of the capacity (R161). -/
theorem tick_of_done_loaded (hFull : s.empty = false) (hShort : s.index + 3 < s.params.capacity) :
    tick d s = .next (loadChannels L (completeWord (driveFalling L s))) := by
  have hUnread : s.index < s.params.capacity := by omega
  have hIndex : (loadChannels L (completeWord (driveFalling L s))).index ≠ s.params.capacity :=
    mt (loadChannels_index_eq_capacity_iff (s := completeWord (driveFalling L s)) hUnread).mp (not_le.mpr hShort)
  rw [tick_of_done d hBegun hRun hFalling hDone, advance_of_loaded (s := completeWord (driveFalling L s)) hFull hIndex, answerOf]

/-- A completed word whose loads reach the capacity (R163). -/
theorem tick_of_done_drained (hFull : s.empty = false) (hUnread : s.index < s.params.capacity)
    (hLast : s.params.capacity ≤ s.index + 3) :
    tick d s = answerOf (drain (loadChannels L (completeWord (driveFalling L s)))) := by
  have hIndex : (loadChannels L (completeWord (driveFalling L s))).index = s.params.capacity :=
    (loadChannels_index_eq_capacity_iff (s := completeWord (driveFalling L s)) hUnread).mpr hLast
  rw [tick_of_done d hBegun hRun hFalling hDone, advance_of_drained (s := completeWord (driveFalling L s)) hFull hIndex]

end

/-- Settles O33: nothing is loaded from an empty buffer. -/
theorem completionOnEmptyBufferKeepsRegisters : Obligations.CompletionOnEmptyBufferKeepsRegisters :=
  fun s L _ d hBegun hRun hFalling hDone hEmpty =>
    ⟨_, tick_of_done_empty d hBegun hRun hFalling hDone hEmpty, rfl, rfl, rfl, rfl, driveFalling_dout_level L s, rfl⟩

/-! ### The advancement -/

/-- The registers the channel loads leave, as numbers: a channel with a byte left takes it, the others keep theirs (R161, R162). -/
theorem loadChannels_sr_toNat (L : BitVec 6) (s : State) (i : Channel) :
    (laneGet (loadChannels L s).sr i).toNat =
      if s.index + i.val < s.params.capacity then (bufAt s (s.index + i.val)).toNat % 2 ^ L.toNat else (laneGet s.sr i).toNat := by
  rw [loadChannels_sr]
  split
  · exact byteWord_toNat L _
  · rfl

/-- Settles O34: all three channels have a byte. -/
theorem advancementLoadsThreeBytes : Obligations.AdvancementLoadsThreeBytes := by
  intro s L p d hBegun hRun hFalling hDone hFull hShort
  refine ⟨_, tick_of_done_loaded d hBegun hRun hFalling hDone hFull hShort, fun i => ?_, fun i => ?_, ?_, by simp, by simp, by simp,
    by simp, ?_⟩
  · have hByte : (completeWord (driveFalling L s)).index + i.val < (completeWord (driveFalling L s)).params.capacity := by
      simp only [completeWord_index, completeWord_params, driveFalling_index, driveFalling_params]
      omega
    rw [loadChannels_sr_toNat, if_pos hByte]
    rfl
  · rw [loadChannels_dout]
    exact driveFalling_dout_level L s i
  · have hIndex : s.index ≤ s.params.capacity := by omega
    rw [loadChannels_index (s := completeWord (driveFalling L s)) hIndex]
    exact Nat.min_eq_left hShort.le
  · rw [loadChannels_eq]; rfl

/-! ### The drain -/

theorem drain_history {s t : State} (h : drain s = .ok t) :
    t.history = s.history ++ (if s.obsEn then [.chunkBoundary] else []) := by
  obtain ⟨-, rfl⟩ | ⟨-, u, hFill, rfl⟩ := drain_ok h
  · exact notifyObserver_history _
  · rw [notifyObserver_history, fill_history hFill, fill_obsEn hFill]

/-- The final drain writes the empty flag and the history alone. -/
theorem drain_last_frame {s t : State} (h : drain s = .ok t) (hRemaining : s.remaining = 0) :
    t = { s with empty := true, history := t.history } := by
  rw [drain_of_last hRemaining] at h
  cases h
  unfold notifyObserver
  split <;> rfl

/-- A drain with source bytes left is a fill, heard. -/
theorem drain_refill {s t : State} (h : drain s = .ok t) (hRemaining : s.remaining ≠ 0) :
    ∃ u, fill { s with empty := true } = .ok u ∧ t = { u with history := t.history } := by
  obtain ⟨hZero, -⟩ | ⟨-, u, hFill, rfl⟩ := drain_ok h
  · exact absurd hZero hRemaining
  · refine ⟨u, hFill, ?_⟩
    unfold notifyObserver
    split <;> rfl

/-- What every tick that completes a word and drains the buffer does, whether or not it refills: the channels with a byte left load it,
DOUT shows the old registers, and the observer hears of the drain once. -/
theorem tick_of_done_drained_next {s t : State} {L : BitVec 6} {p : Word} (d : Lanes Bool) (hBegun : s.lifecycle = .begun L p)
    (hRun : s.run = .running) (hFalling : s.phase = .falling) (hDone : s.bitCount = L) (hFull : s.empty = false)
    (hUnread : s.index < s.params.capacity) (hLast : s.params.capacity ≤ s.index + 3)
    (hDrain : drain (loadChannels L (completeWord (driveFalling L s))) = .ok t) :
    tick d s = .next t ∧
    (∀ i : Channel, (laneGet t.sr i).toNat =
      if s.index + i.val < s.params.capacity then (bufAt s (s.index + i.val)).toNat % 2 ^ L.toNat else (laneGet s.sr i).toNat) ∧
    (∀ i : Channel, laneGet t.dout i = if (laneGet s.sr i).toNat.testBit (L.toNat - 1) then .high else .low) ∧
    t.history = s.history ++ (if s.obsEn then [.chunkBoundary] else []) ∧
    t.clk = .low ∧ t.phase = .rising ∧ t.bitCount = 0 ∧ t.scanComplete = true := by
  refine ⟨?_, fun i => ?_, fun i => ?_, ?_, ?_⟩
  · rw [tick_of_done_drained d hBegun hRun hFalling hDone hFull hUnread hLast, hDrain, answerOf]
  · rw [drain_sr hDrain, loadChannels_sr_toNat]
    rfl
  · rw [drain_frame hDrain, ← driveFalling_dout_level]
    simp
  · rw [drain_history hDrain]
    simp
  · rw [drain_frame hDrain]
    simp

/-- Settles O35: with no source byte left the drain always answers, and it leaves the index at the capacity. -/
theorem finalDrain : Obligations.FinalDrain := by
  intro s L p d hBegun hRun hFalling hDone hFull hUnread hLast hRemaining
  have hZero : (loadChannels L (completeWord (driveFalling L s))).remaining = 0 := by simpa using hRemaining
  obtain ⟨t, hDrain⟩ : ∃ t, drain (loadChannels L (completeWord (driveFalling L s))) = .ok t := ⟨_, drain_of_last hZero⟩
  obtain ⟨hTick, hSr, hDout, hHistory, hClk, hPhase, hCount, hScan⟩ :=
    tick_of_done_drained_next d hBegun hRun hFalling hDone hFull hUnread hLast hDrain
  have hFrame := drain_last_frame hDrain hZero
  have hIndex : t.index = s.params.capacity := by
    rw [hFrame]
    exact (loadChannels_index_eq_capacity_iff (s := completeWord (driveFalling L s)) hUnread).mpr hLast
  have hEmpty : t.empty = true := by rw [hFrame]
  refine ⟨t, hTick, hSr, hDout, hIndex, hEmpty, hHistory, hClk, hPhase, hCount, hScan, ?_⟩
  rw [hFrame, loadChannels_eq]
  rfl

/-! ### The refill -/

/-- The state a refill starts from, in a tick that completes a word of `s`: outputs driven, word completed, channels loaded. -/
def refillStart (L : BitVec 6) (s : State) : State := { loadChannels L (completeWord (driveFalling L s)) with empty := true }

section
variable (L : BitVec 6) (s : State)

/-! It has the source, the memory, the capacity and the buffer bytes of the tick's start. -/

@[simp] theorem refillStart_params : (refillStart L s).params = s.params := loadChannels_params L _
@[simp] theorem refillStart_srcPtr : (refillStart L s).srcPtr = s.srcPtr := loadChannels_srcPtr L _
@[simp] theorem refillStart_remaining : (refillStart L s).remaining = s.remaining := loadChannels_remaining L _
@[simp] theorem memRead_refillStart (a : Nat) : memRead (refillStart L s) a = memRead s a := memRead_congr (loadChannels_mem L _) a
@[simp] theorem bufAt_refillStart (k : Nat) : bufAt (refillStart L s) k = bufAt s k := bufAt_congr (loadChannels_buf L _) k
@[simp] theorem fillLength_refillStart : fillLength (refillStart L s) = fillLength s := by
  simp [fillLength]

end

/-- The loads leave the remaining length, so the drain asks the same question of it as the tick's start. -/
theorem remaining_loaded_ne {L : BitVec 6} {s : State} (h : s.remaining ≠ 0) :
    (loadChannels L (completeWord (driveFalling L s))).remaining ≠ 0 := by
  simpa using h

/-- Settles O36: the next chunk is admitted, so the drain's fill succeeds, and what it leaves is said of the source and the buffer
bytes of the tick's start. -/
theorem drainRefills : Obligations.DrainRefills := by
  intro s L p d hBegun hRun hFalling hDone hFull hUnread hLast hRemaining hAdmitted
  obtain ⟨u, hFill⟩ : ∃ u, fill (refillStart L s) = .ok u := fill_total (by simpa [fillLength] using hAdmitted)
  obtain ⟨t, hDrain, hNext⟩ : ∃ t, drain (loadChannels L (completeWord (driveFalling L s))) = .ok t ∧
      t = { u with history := t.history } := by
    obtain ⟨t, hDrain⟩ : ∃ t, drain _ = .ok t := ⟨_, drain_of_refill (remaining_loaded_ne hRemaining) hFill⟩
    obtain ⟨v, hFill', hNext⟩ := drain_refill hDrain (remaining_loaded_ne hRemaining)
    cases hFill.symm.trans hFill'
    exact ⟨t, hDrain, hNext⟩
  obtain ⟨hTick, hSr, hDout, hHistory, hClk, hPhase, hCount, hScan⟩ :=
    tick_of_done_drained_next d hBegun hRun hFalling hDone hFull hUnread hLast hDrain
  have hBuf : ∀ k, bufAt t k = bufAt u k := bufAt_congr (by rw [hNext])
  have hNew : ∀ k, k < fillLength s → memRead s (s.srcPtr.toNat + k) = some (bufAt t k) := fun k hk => by
    simpa [hBuf] using bufAt_fill_of_lt hFill (k := k) (by simpa using hk)
  have hOld : ∀ k, fillLength s ≤ k → bufAt t k = bufAt s k := fun k hk => by
    simpa [hBuf] using bufAt_fill_of_le hFill (k := k) (by simpa using hk)
  have hSrc : t.srcPtr.toNat = (s.srcPtr.toNat + fillLength s) % 2 ^ 32 := by
    rw [hNext]; simpa using srcPtr_fill_toNat hFill
  have hLeft : t.remaining.toNat = s.remaining.toNat - fillLength s := by
    rw [hNext]; simpa using remaining_fill_toNat hFill
  have hIndex : t.index = 0 := by rw [hNext]; exact (index_fill hFill :)
  have hEmpty : t.empty = false := by rw [hNext]; exact (empty_fill hFill :)
  refine ⟨t, hTick, hSr, hDout, hNew, hOld, hSrc, hLeft, hIndex, hEmpty, hHistory, hClk, hPhase, hCount, hScan, ?_⟩
  rw [drain_frame hDrain, loadChannels_eq]
  rfl

/-- Settles O37: the drain's fill meets the byte. -/
theorem refillStuck : Obligations.RefillStuck := by
  intro s L p d hBegun hRun hFalling hDone hFull hUnread hLast hRemaining ⟨k, hk, hNone⟩
  obtain ⟨a, hFill⟩ : ∃ a, fill (refillStart L s) = .error (.stuckMem a) :=
    fill_stuck (k := k) (by simpa [fillLength] using hk) (by simpa using hNone)
  have hDrain := drain_of_stuck (remaining_loaded_ne hRemaining) hFill
  exact ⟨a, by rw [tick_of_done_drained d hBegun hRun hFalling hDone hFull hUnread hLast, hDrain, answerOf]⟩

end Sys2Proof.Machine
end

section
/-! PROOFS. A tick reads external memory only in the source range not yet copied (20_memory.md). -/

namespace Sys2Proof.Machine

/-- The state with another external memory. -/
def setMem (m : Memory) (s : State) : State := { s with mem := m }

theorem loadChannel_setMem (L : BitVec 6) (m : Memory) (s : State) (i : Channel) :
    loadChannel L (setMem m s) i = setMem m (loadChannel L s i) := by
  have hUnread : hasUnread (setMem m s) = hasUnread s := rfl
  rw [loadChannel, loadChannel, hUnread]
  split <;> rfl

theorem loadChannels_setMem (L : BitVec 6) (m : Memory) (s : State) :
    loadChannels L (setMem m s) = setMem m (loadChannels L s) := by
  simp only [loadChannels, loadChannel_setMem]

theorem notifyObserver_setMem (m : Memory) (s : State) : notifyObserver (setMem m s) = setMem m (notifyObserver s) := by
  have hObs : (setMem m s).obsEn = s.obsEn := rfl
  rw [notifyObserver, notifyObserver, hObs]
  split <;> rfl

/-- Another memory that reads alike on the bytes still to be copied. -/
def SameSource (m : Memory) (s : State) : Prop :=
  ∀ k, k < s.remaining.toNat → memRead (setMem m s) (s.srcPtr.toNat + k) = memRead s (s.srcPtr.toNat + k)

/-- Reading alike depends on the source range and the memory alone. -/
theorem SameSource.congr {m : Memory} {s t : State} (h : SameSource m s) (hSrc : t.srcPtr = s.srcPtr)
    (hRemaining : t.remaining = s.remaining) (hMem : t.mem = s.mem) : SameSource m t := by
  intro k hk
  rw [hSrc, memRead_congr hMem, memRead_congr (s := setMem m s) (t := setMem m t) rfl]
  exact h k (hRemaining ▸ hk)

theorem fill_setMem {m : Memory} {s : State} (h : SameSource m s) : fill (setMem m s) = (fill s).map (setMem m) := by
  have hRead : readRange (setMem m s) s.srcPtr.toNat (fillLength s) = readRange s s.srcPtr.toNat (fillLength s) :=
    readRange_congr fun k hk => h k (hk.trans_le (fillLength_le_remaining s))
  have hSrc : (setMem m s).srcPtr = s.srcPtr := rfl
  have hLength : fillLength (setMem m s) = fillLength s := rfl
  rw [fill, fill, hSrc, hLength, hRead]
  cases readRange s s.srcPtr.toNat (fillLength s) <;> rfl

theorem drain_setMem {m : Memory} {s : State} (h : SameSource m s) : drain (setMem m s) = (drain s).map (setMem m) := by
  by_cases hLast : s.remaining = 0
  · rw [drain_of_last hLast, drain_of_last (s := setMem m s) hLast]
    exact congrArg Except.ok (notifyObserver_setMem m { s with empty := true })
  · have hFill : fill { setMem m s with empty := true } = (fill { s with empty := true }).map (setMem m) :=
      fill_setMem (h.congr (t := { s with empty := true }) rfl rfl rfl)
    cases hu : fill { s with empty := true } with
    | error f => rw [drain_of_stuck hLast hu, drain_of_stuck (s := setMem m s) hLast (hFill.trans (by rw [hu]; rfl))]; rfl
    | ok u =>
      rw [drain_of_refill hLast hu, drain_of_refill (s := setMem m s) hLast (hFill.trans (by rw [hu]; rfl)), notifyObserver_setMem]
      rfl

theorem advance_setMem {L : BitVec 6} {m : Memory} {s : State} (h : SameSource m s) :
    advance L (setMem m s) = (advance L s).map (setMem m) := by
  have hEmpty : (setMem m s).empty = s.empty := rfl
  have hDrained : drained (setMem m (loadChannels L s)) = drained (loadChannels L s) := rfl
  rw [advance, advance, loadChannels_setMem, hEmpty, hDrained]
  split
  · rfl
  split
  · exact drain_setMem (h.congr (loadChannels_srcPtr L s) (loadChannels_remaining L s) (loadChannels_mem L s))
  · rfl

theorem fallingTick_setMem {L : BitVec 6} {m : Memory} {s : State} (h : SameSource m s) :
    fallingTick L (setMem m s) = (fallingTick L s).map (setMem m) := by
  by_cases hDone : s.bitCount = L
  · have hStart : completeWord (driveFalling L (setMem m s)) = setMem m (completeWord (driveFalling L s)) := rfl
    rw [fallingTick_of_done hDone, fallingTick_of_done (s := setMem m s) hDone, hStart]
    exact advance_setMem (s := completeWord (driveFalling L s)) (h.congr rfl rfl rfl)
  · rw [fallingTick_of_midword hDone, fallingTick_of_midword (s := setMem m s) hDone]
    rfl

theorem answerOf_map (f : State → State) (x : Except Fault State) : answerOf (x.map f) = mapNext f (answerOf x) := by
  cases x <;> rfl

/-- A tick on another memory that reads alike on the pending source is the same tick, with that memory kept. -/
theorem tick_setMem {m : Memory} {s : State} (d : Lanes Bool) (h : SameSource m s) :
    tick d (setMem m s) = mapNext (setMem m) (tick d s) := by
  cases hPeriod : s.period with
  | none => rw [tick_of_noPeriod d hPeriod, tick_of_noPeriod (s := setMem m s) d hPeriod, mapNext_refused]
  | some p =>
    obtain ⟨L, hBegun⟩ := begun_of_period hPeriod
    have hBegun' : (setMem m s).lifecycle = .begun L p := hBegun
    cases hRun : s.run with
    | idle => rw [tick_of_idle d hBegun hRun, tick_of_idle d hBegun' hRun, mapNext_next]
    | running =>
      cases hPhase : s.phase with
      | rising => rw [tick_of_rising d hBegun hRun hPhase, tick_of_rising d hBegun' hRun hPhase]; rfl
      | falling =>
        rw [tick_of_falling d hBegun hRun hPhase, tick_of_falling d hBegun' hRun hPhase, fallingTick_setMem h, answerOf_map]

/-- Settles O44: the equation of `tick_setMem`, read for a next state and for a fault. -/
theorem tickReadsOnlyThePendingSource : Obligations.TickReadsOnlyThePendingSource := by
  intro s m d hSame
  have hTick : tick d { s with mem := m } = mapNext (setMem m) (tick d s) := tick_setMem d hSame
  exact ⟨fun t h => by rw [hTick, h]; rfl, fun f h => by rw [hTick, h]; rfl⟩

end Sys2Proof.Machine
end

section
/-! PROOFS. Tick-pairs: what a register holds, how long a word takes, and which bit is never driven (42_clock_phase.md). -/

namespace Sys2Proof.Machine

/-! ### One pair -/

theorem ticks_cons_of_next {d : Lanes Bool} {s u : State} (ds : List (Lanes Bool)) (h : tick d s = .next u) :
    ticks (d :: ds) s = ticks ds u := by
  simp only [ticks, h]

theorem ticks_cons_next {d : Lanes Bool} {ds : List (Lanes Bool)} {s t : State} (h : ticks (d :: ds) s = .next t) :
    ∃ u, tick d s = .next u ∧ ticks ds u = .next t := by
  cases hTick : tick d s with
  | next u => exact ⟨u, rfl, by simpa only [ticks, hTick] using h⟩
  | fault f => simp only [ticks, hTick, reduceCtorEq] at h
  | refused r => simp only [ticks, hTick, reduceCtorEq] at h

/-- A begun, running bank of chain length `L` before a rising tick: where tick-pairs start. -/
structure BeforePair (L : BitVec 6) (s : State) : Prop where
  begun : ∃ p, s.lifecycle = .begun L p
  running : s.run = .running
  rising : s.phase = .rising

/-- The two ticks of a pair are the two halves, the rising one first, and the bank is before a pair again. -/
theorem BeforePair.of_ticks {L : BitVec 6} {s t : State} {d d' : Lanes Bool} {ds : List (Lanes Bool)} (hs : BeforePair L s)
    (h : ticks (d :: d' :: ds) s = .next t) :
    ∃ u, fallingTick L (risingTick L d s) = .ok u ∧ BeforePair L u ∧ ticks ds u = .next t := by
  obtain ⟨⟨p, hBegun⟩, hRun, hRising⟩ := hs
  obtain ⟨v, hFirst, h⟩ := ticks_cons_next h
  rw [tick_of_rising d hBegun hRun hRising] at hFirst
  cases hFirst
  obtain ⟨u, hSecond, h⟩ := ticks_cons_next h
  rw [tick_of_falling (s := risingTick L d s) d' hBegun hRun rfl] at hSecond
  cases hHalf : fallingTick L (risingTick L d s) with
  | error f => rw [hHalf] at hSecond; cases hSecond
  | ok w =>
    rw [hHalf] at hSecond
    cases hSecond
    refine ⟨u, rfl, ?_, h⟩
    rw [fallingTick_frame hHalf]
    exact ⟨⟨p, hBegun⟩, hRun, rfl⟩

/-- A pair is in the middle of a word, or its last bit completes the word and the buffer advances (R143, R145). -/
theorem pair_cases {L : BitVec 6} {s u : State} {d : Lanes Bool} (hL : L.toNat ≤ 32) (hCount : s.bitCount.toNat < L.toNat)
    (h : fallingTick L (risingTick L d s) = .ok u) :
    (s.bitCount.toNat + 1 < L.toNat ∧ u.bitCount.toNat = s.bitCount.toNat + 1 ∧ u = driveFalling L (risingTick L d s)) ∨
    (s.bitCount.toNat + 1 = L.toNat ∧ u.bitCount.toNat = 0 ∧ u.scanComplete = true ∧
      advance L (completeWord (driveFalling L (risingTick L d s))) = .ok u) := by
  have hSum : (risingTick L d s).bitCount.toNat = s.bitCount.toNat + 1 := risingTick_bitCount_toNat L d (by omega)
  obtain ⟨hMidword, rfl⟩ | ⟨hDone, hAdvance⟩ := fallingTick_ok h
  · have hne := mt BitVec.eq_of_toNat_eq hMidword
    rw [hSum] at hne
    exact .inl ⟨by omega, hSum, rfl⟩
  · refine .inr ⟨by rw [← hSum, hDone], ?_, ?_, hAdvance⟩
    · rw [advance_frame hAdvance]; rfl
    · rw [advance_frame hAdvance]; rfl

/-! ### The bit that is shifted out -/

/-- The bit a falling half drives right after a shift: bit `L - 2` of the old register, or the sample where there is no such bit. -/
theorem topBit_shiftIn {L : BitVec 6} (hPos : 1 ≤ L.toNat) (hL : L.toNat ≤ 32) (w : Word) (d : Bool) :
    (shiftIn L w d).toNat.testBit (L.toNat - 1) = if L.toNat = 1 then d else w.toNat.testBit (L.toNat - 2) := by
  rw [BitVec.testBit_toNat, shiftIn_getLsbD L w d _ (by omega), BitVec.testBit_toNat, decide_eq_true (by omega), Bool.true_and]
  rcases Nat.eq_or_lt_of_le hPos with hOne | hMore
  · simp [← hOne]
  · rw [if_neg (by omega), if_neg (by omega), Nat.sub_sub]

/-- Settles O43: the second half of the pair drives the top bits of the registers that the first half left. -/
theorem topBitIsShiftedOutUnseen : Obligations.TopBitIsShiftedOutUnseen := by
  intro s t L p d d' i hBegun hPos hL hRun hRising h
  obtain ⟨u, hHalf, -, h⟩ := BeforePair.of_ticks ⟨⟨p, hBegun⟩, hRun, hRising⟩ h
  cases h
  rw [fallingTick_frame hHalf]
  simp only [laneGet_map, risingTick_sr, laneGet_zip, topLevel_eq, topBit_shiftIn hPos hL]

/-! ### How long a word takes -/

/-- `ds` pairs that stay within one word count its bits; the flag is up at the end exactly if the word completed or a sticky flag was
up before (R142, R145, R147). -/
theorem pairs_within_word {L : BitVec 6} (hL : L.toNat ≤ 32) {t : State} :
    ∀ (ds : List (Lanes Bool)) (s : State), BeforePair L s → s.bitCount.toNat + ds.length ≤ L.toNat → ds ≠ [] →
      ticks (pairTicks ds) s = .next t →
      t.phase = .rising ∧ t.bitCount.toNat = (s.bitCount.toNat + ds.length) % L.toNat ∧
      (t.scanComplete = true ↔ s.bitCount.toNat + ds.length = L.toNat ∨ (s.params.sticky = true ∧ s.scanComplete = true)) := by
  intro ds
  induction ds with
  | nil => exact fun s _ _ hNil => absurd rfl hNil
  | cons d ds ih =>
    intro s hs hLength _ h
    rw [List.length_cons] at hLength ⊢
    obtain ⟨u, hHalf, hu, h⟩ := hs.of_ticks h
    obtain ⟨hMidword, hCount, hNext⟩ | ⟨hDone, hCount, hScan, -⟩ := pair_cases hL (by omega) hHalf
    · have hParams : u.params = s.params := by rw [hNext]; rfl
      have hFlag : u.scanComplete = (s.params.sticky && s.scanComplete) := by rw [hNext]; rfl
      cases ds with
      | nil =>
        cases h
        refine ⟨hu.rising, hCount.trans (Nat.mod_eq_of_lt hMidword).symm, ?_⟩
        rw [hFlag, Bool.and_eq_true, or_iff_right (by simp; omega)]
      | cons d' ds =>
        obtain ⟨hPhase, hEnd, hUp⟩ := ih u hu (by omega) (List.cons_ne_nil _ _) h
        rw [hCount] at hEnd hUp
        rw [hParams, hFlag, Bool.and_eq_true] at hUp
        refine ⟨hPhase, by rw [hEnd]; congr 1; omega, hUp.trans (or_congr ?_ ?_)⟩
        · rw [Nat.add_assoc, Nat.add_comm 1]
        · exact ⟨And.right, fun hBoth => ⟨hBoth.1, hBoth⟩⟩
    · obtain rfl : ds = [] := List.eq_nil_of_length_eq_zero (by omega)
      cases h
      have hWord : s.bitCount.toNat + (([] : List (Lanes Bool)).length + 1) = L.toNat := hDone
      exact ⟨hu.rising, by rw [hCount, hWord, Nat.mod_self], iff_of_true hScan (.inl hWord)⟩

/-- Settles O42: counted from `bitCount = 0`. -/
theorem wordTakesLPairs : Obligations.WordTakesLPairs := by
  intro s t L p ds hBegun _ hL hRun hRising hCount hNonempty hLength h
  have hZero : s.bitCount.toNat = 0 := by rw [hCount]; rfl
  simpa only [hZero, Nat.zero_add] using
    pairs_within_word hL ds s ⟨⟨p, hBegun⟩, hRun, hRising⟩ (by rw [hZero]; omega) hNonempty h

/-! ### The register after pairs -/

/-- A channel keeps its register through an advancement that finds the buffer empty or no byte left for the channel (R160, R168). -/
theorem advance_sr_kept {L : BitVec 6} {s t : State} {i : Channel} (h : advance L s = .ok t)
    (hKept : s.empty = true ∨ s.params.capacity ≤ s.index + i.val) : laneGet t.sr i = laneGet s.sr i := by
  obtain hEmpty | hNone := hKept
  · rw [advance_of_empty hEmpty] at h
    cases h
    rfl
  · obtain hSr | hSr := advance_sr h
    · rw [hSr]
    · rw [hSr, loadChannels_sr, if_neg (by omega)]

/-- Pairs shift their samples in one after the other, if at most one word completes among them and its advancement keeps the channel's
register. -/
theorem pairs_sr {L : BitVec 6} (hL : L.toNat ≤ 32) {t : State} {i : Channel} :
    ∀ (ds : List (Lanes Bool)) (s : State), BeforePair L s → s.bitCount.toNat < L.toNat →
      (s.bitCount.toNat + ds.length < L.toNat ∨
        s.bitCount.toNat + ds.length < 2 * L.toNat ∧ (s.empty = true ∨ s.params.capacity ≤ s.index + i.val)) →
      ticks (pairTicks ds) s = .next t →
      laneGet t.sr i = ds.foldl (fun w d => shiftIn L w (laneGet d i)) (laneGet s.sr i) := by
  intro ds
  induction ds with
  | nil => intro s _ _ _ h; cases h; rfl
  | cons d ds ih =>
    intro s hs hCount hKept h
    rw [List.length_cons] at hKept
    obtain ⟨u, hHalf, hu, h⟩ := hs.of_ticks h
    have hShift : laneGet (risingTick L d s).sr i = shiftIn L (laneGet s.sr i) (laneGet d i) := by rw [risingTick_sr, laneGet_zip]
    rw [List.foldl_cons, ← hShift]
    obtain ⟨hMidword, hNewCount, hNext⟩ | ⟨hDone, hNewCount, -, hAdvance⟩ := pair_cases hL hCount hHalf
    · have hSame : u.empty = s.empty ∧ u.params = s.params ∧ u.index = s.index ∧ u.sr = (risingTick L d s).sr := by
        rw [hNext]; exact ⟨rfl, rfl, rfl, rfl⟩
      obtain ⟨hEmpty, hParams, hIndex, hSr⟩ := hSame
      rw [← hSr]
      refine ih u hu (by omega) ?_ h
      rw [hNewCount, hEmpty, hParams, hIndex]
      exact hKept.imp (by omega) (And.imp_left (by omega))
    · obtain ⟨hOnce, hKept⟩ := hKept.resolve_left (by omega)
      have hSr : laneGet u.sr i = laneGet (risingTick L d s).sr i :=
        advance_sr_kept (s := completeWord (driveFalling L (risingTick L d s))) hAdvance hKept
      rw [← hSr]
      exact ih u hu (by omega) (.inl (by omega)) h

section
variable {L : BitVec 6} (hL : L.toNat ≤ 32) {i : Channel} {b : Bool}
include hL

/-- `n` shifts of one bit `b`: with `b` added, each of them doubles. -/
theorem foldl_shiftIn_modEq : ∀ (ds : List (Lanes Bool)) (w : Word), (∀ d, d ∈ ds → laneGet d i = b) →
    (ds.foldl (fun w d => shiftIn L w (laneGet d i)) w).toNat + b.toNat ≡ 2 ^ ds.length * (w.toNat + b.toNat) [MOD 2 ^ L.toNat] := by
  intro ds
  induction ds with
  | nil => intro w _; simp [Nat.ModEq.refl]
  | cons d ds ih =>
    intro w hBit
    obtain ⟨hd, hds⟩ := List.forall_mem_cons.mp hBit
    have hShift : (shiftIn L w b).toNat + b.toNat ≡ 2 * (w.toNat + b.toNat) [MOD 2 ^ L.toNat] := by
      rw [shiftIn_toNat hL, show 2 * (w.toNat + b.toNat) = 2 * w.toNat + b.toNat + b.toNat by omega]
      exact (Nat.mod_modEq _ _).add_right _
    rw [List.foldl_cons, hd, List.length_cons, Nat.pow_succ, Nat.mul_assoc]
    exact (ih _ hds).trans (hShift.mul_left _)

/-- A shifted register is below `2^L`, however many shifts follow. -/
theorem foldl_shiftIn_lt (ds : List (Lanes Bool)) : ∀ w : Word, w.toNat < 2 ^ L.toNat →
    (ds.foldl (fun w d => shiftIn L w (laneGet d i)) w).toNat < 2 ^ L.toNat := by
  induction ds with
  | nil => exact fun w hw => hw
  | cons d ds ih => exact fun w _ => ih _ (by rw [shiftIn_toNat hL]; exact Nat.mod_lt _ (Nat.two_pow_pos _))

/-- `L` shifts of one bit fill the register with it (R149). -/
theorem foldl_shiftIn_full {ds : List (Lanes Bool)} (hPos : 1 ≤ L.toNat) (hLength : ds.length = L.toNat)
    (hBit : ∀ d, d ∈ ds → laneGet d i = b) (w : Word) :
    (ds.foldl (fun w d => shiftIn L w (laneGet d i)) w).toNat = if b then 2 ^ L.toNat - 1 else 0 := by
  have hMod := foldl_shiftIn_modEq hL ds w hBit
  rw [hLength] at hMod
  have hDvd := (Nat.modEq_zero_iff_dvd.mp (hMod.trans (Nat.modEq_zero_iff_dvd.mpr (Nat.dvd_mul_right _ _))))
  have hLt : (ds.foldl (fun w d => shiftIn L w (laneGet d i)) w).toNat < 2 ^ L.toNat := by
    cases ds with
    | nil => rw [List.length_nil] at hLength; omega
    | cons d ds =>
      rw [List.foldl_cons]
      exact foldl_shiftIn_lt hL ds _ (by rw [shiftIn_toNat hL]; exact Nat.mod_lt _ (Nat.two_pow_pos _))
  cases b with
  | false => exact Nat.eq_zero_of_dvd_of_lt hDvd hLt
  | true =>
    have hle := Nat.le_of_dvd (Nat.succ_pos _) hDvd
    simp only [if_true] at hle ⊢
    omega

end

/-! ### Ticks on an empty buffer -/

/-- A tick of a begun bank with an empty buffer always answers, and leaves it begun and empty: nothing is read. -/
theorem tick_of_empty {L : BitVec 6} {p : Word} {s : State} (d : Lanes Bool) (hBegun : s.lifecycle = .begun L p)
    (hEmpty : s.empty = true) : ∃ u, tick d s = .next u ∧ u.lifecycle = .begun L p ∧ u.empty = true := by
  cases hRun : s.run with
  | idle => exact ⟨_, tick_of_idle d hBegun hRun, hBegun, hEmpty⟩
  | running =>
    cases hPhase : s.phase with
    | rising => exact ⟨_, tick_of_rising d hBegun hRun hPhase, hBegun, hEmpty⟩
    | falling =>
      by_cases hDone : s.bitCount = L
      · exact ⟨_, tick_of_done_empty d hBegun hRun hPhase hDone hEmpty, hBegun, hEmpty⟩
      · refine ⟨driveFalling L s, ?_, hBegun, hEmpty⟩
        rw [tick_of_falling d hBegun hRun hPhase, fallingTick_of_midword hDone, answerOf]

theorem ticks_of_empty {L : BitVec 6} {p : Word} : ∀ (ds : List (Lanes Bool)) (s : State), s.lifecycle = .begun L p →
    s.empty = true → ∃ t, ticks ds s = .next t := by
  intro ds
  induction ds with
  | nil => exact fun s _ _ => ⟨s, rfl⟩
  | cons d ds ih =>
    intro s hBegun hEmpty
    obtain ⟨u, hTick, hBegun', hEmpty'⟩ := tick_of_empty d hBegun hEmpty
    rw [ticks_cons_of_next ds hTick]
    exact ih u hBegun' hEmpty'

/-- Settles O41: from `bitCount < L`, `L` pairs complete one word, and the register is `L` shifts of the bit. -/
theorem repeatedBitFillsRegister : Obligations.RepeatedBitFillsRegister := by
  intro s L p ds i b hBegun hPos hL hRun hRising hCount hLength hBit hKept
  refine ⟨fun t h => ?_, ticks_of_empty _ s hBegun⟩
  rw [pairs_sr hL ds s ⟨⟨p, hBegun⟩, hRun, hRising⟩ hCount (.inr ⟨by omega, hKept⟩) h]
  exact foldl_shiftIn_full hL hPos hLength hBit _

end Sys2Proof.Machine
end

section
/-! PROOFS. A transfer is heard once for each chunk (43_chunk_advance.md, Consequences). -/

namespace Sys2Proof.Machine

/-! ### Chunks still to come -/

/-- Taking one chunk of `min(r, C)` bytes off `r >= 1` bytes leaves one chunk fewer. -/
theorem chunks_sub_min {r c : Nat} (hc : 1 ≤ c) (hr : 1 ≤ r) : (r + (c - 1)) / c = (r - min r c + (c - 1)) / c + 1 := by
  rcases Nat.le_total r c with h | h
  · have hLast : (c - 1) / c = 0 := Nat.div_eq_of_lt (by omega)
    rw [min_eq_left h, Nat.sub_self, Nat.zero_add, hLast, show r + (c - 1) = r - 1 + c by omega, Nat.add_div_right _ hc,
      Nat.div_eq_of_lt (by omega)]
  · rw [min_eq_right h, show r + (c - 1) = r - c + (c - 1) + c by omega, Nat.add_div_right _ hc]

/-- What is left depends on three fields alone. -/
theorem drainsLeft_congr {s t : State} (hEmpty : t.empty = s.empty) (hRemaining : t.remaining = s.remaining)
    (hParams : t.params = s.params) : drainsLeft t = drainsLeft s := by
  rw [drainsLeft, drainsLeft, hEmpty, hRemaining, hParams]

/-- No drain is left exactly when no source byte is left and the buffer is empty. -/
theorem drainsLeft_eq_zero_iff {s : State} (hCapacity : 1 ≤ s.params.capacity) :
    drainsLeft s = 0 ↔ s.remaining = 0 ∧ s.empty = true := by
  have hChunks : (s.remaining.toNat + (s.params.capacity - 1)) / s.params.capacity = 0 ↔ s.remaining = 0 := by
    rw [Nat.div_eq_zero_iff_lt hCapacity, ← BitVec.toNat_inj]
    change _ ↔ _ = 0
    omega
  rw [drainsLeft, Nat.add_eq_zero_iff, hChunks, and_comm]
  cases s.empty <;> simp

/-- After a fill the drains left are the chunks of the length it started from: its own chunk is in the buffer. -/
theorem drainsLeft_fill {s t : State} (h : fill s = .ok t) (hCapacity : 1 ≤ s.params.capacity) (hRemaining : s.remaining ≠ 0) :
    drainsLeft t = (s.remaining.toNat + (s.params.capacity - 1)) / s.params.capacity := by
  have hPos : s.remaining.toNat ≠ 0 := mt (BitVec.eq_of_toNat_eq (y := 0)) hRemaining
  have hParams : t.params = s.params := by rw [fill_frame h]
  rw [drainsLeft, empty_fill h, remaining_fill_toNat h, hParams, fillLength,
    chunks_sub_min (r := s.remaining.toNat) hCapacity (by omega)]
  exact Nat.add_comm _ _

/-- A drain is one of the drains that were left. -/
theorem drainsLeft_drain {s t : State} (h : drain s = .ok t) (hCapacity : 1 ≤ s.params.capacity) (hFull : s.empty = false) :
    drainsLeft t + 1 = drainsLeft s := by
  by_cases hLast : s.remaining = 0
  · have hEnd : drainsLeft t = 0 := by
      rw [drain_last_frame h hLast]
      exact (drainsLeft_eq_zero_iff (s := { s with empty := true, history := t.history }) hCapacity).mpr ⟨hLast, rfl⟩
    have hNone : s.remaining.toNat = 0 := by rw [hLast]; rfl
    rw [hEnd, drainsLeft, hFull, hNone, Nat.zero_add, Nat.div_eq_of_lt (by omega)]
    rfl
  · obtain ⟨u, hFill, hNext⟩ := drain_refill h hLast
    have hLeft : drainsLeft t = drainsLeft u := by rw [hNext]; rfl
    rw [hLeft, drainsLeft_fill hFill hCapacity hLast, drainsLeft, hFull]
    exact Nat.add_comm _ _

/-! ### Heard and left -/

/-- The boundary events heard so far and the drains still to come. -/
def heardAndLeft (s : State) : Nat := boundaryCount s.history + drainsLeft s

section
variable {s t : State} (hObs : s.obsEn = true)
include hObs

/-- Each drain of an advancement moves from the drains left to the events heard. -/
theorem advance_heardAndLeft {L : BitVec 6} (hCapacity : 1 ≤ s.params.capacity) (h : advance L s = .ok t) :
    heardAndLeft t = heardAndLeft s := by
  obtain ⟨-, rfl⟩ | ⟨-, -, rfl⟩ | ⟨hFull, -, hDrain⟩ := advance_ok h
  · rfl
  · simp [heardAndLeft, drainsLeft]
  · have hHeard : boundaryCount t.history = boundaryCount s.history + 1 := by simp [boundaryCount_drain hDrain, hObs]
    have hMoved := drainsLeft_drain hDrain (by simpa using hCapacity) (by simpa using hFull)
    have hLoaded : drainsLeft (loadChannels L s) = drainsLeft s := drainsLeft_congr (by simp) (by simp) (by simp)
    rw [heardAndLeft, heardAndLeft, hHeard]
    omega

theorem tick_heardAndLeft {d : Lanes Bool} (hCapacity : 1 ≤ s.params.capacity) (h : tick d s = .next t) :
    heardAndLeft t = heardAndLeft s := by
  obtain ⟨L, p, -, ⟨-, rfl⟩ | ⟨-, -, rfl⟩ | ⟨-, -, hTick⟩⟩ := tick_next h
  · rfl
  · rfl
  obtain ⟨-, rfl⟩ | ⟨-, hAdvance⟩ := fallingTick_ok hTick
  · rfl
  · exact advance_heardAndLeft (s := completeWord (driveFalling L s)) hObs hCapacity hAdvance

end

/-- Settles O45: with an observer the sum is kept; without one no tick is heard at all. -/
theorem eachDrainIsHeardOnce : Obligations.EachDrainIsHeardOnce := by
  intro s t d hInv h
  obtain ⟨hCapacity, -⟩ := hInv.buffer
  refine ⟨fun hObs => tick_heardAndLeft hObs hCapacity h, fun hObs => ?_⟩
  simpa [hObs] using boundaryCount_tick hInv h

/-- Ticks one after another keep the sum and the parameters while an observer is registered. -/
theorem ticks_heardAndLeft {u : State} : ∀ (ds : List (Lanes Bool)) (t : State), 1 ≤ t.params.capacity → t.obsEn = true →
    ticks ds t = .next u → heardAndLeft u = heardAndLeft t ∧ u.params = t.params := by
  intro ds
  induction ds with
  | nil => intro t _ _ h; cases h; exact ⟨rfl, rfl⟩
  | cons d ds ih =>
    intro t hCapacity hObs h
    obtain ⟨v, hTick, h⟩ := ticks_cons_next h
    have hKept : v.params = t.params ∧ v.obsEn = t.obsEn := by rw [tick_frame hTick]; exact ⟨rfl, rfl⟩
    obtain ⟨hParams, hSameObs⟩ := hKept
    obtain ⟨hSum, hEnd⟩ := ih v (hParams ▸ hCapacity) (hSameObs.trans hObs) h
    exact ⟨hSum.trans (tick_heardAndLeft hObs hCapacity hTick), hEnd.trans hParams⟩

/-- Settles O47: LOAD_DATA is not heard and leaves `ceil(LEN / C)` drains; the ticks keep the sum; and no drain is left exactly at the
end of the transfer. -/
theorem transferIsHeardInFull : Obligations.TransferIsHeardInFull := by
  intro s t u L src len ds hInv hL hObs hLen hExec hTicks
  obtain ⟨hCapacity, -⟩ := hInv.buffer
  have hFill := (fill_of_exec_loadData hL hLen hExec).2
  have hStart : drainsLeft t = (len.toNat + (s.params.capacity - 1)) / s.params.capacity := drainsLeft_fill hFill hCapacity hLen
  have hQuiet := boundaryCount_exec hExec
  have hKept : t.params = s.params ∧ t.obsEn = s.obsEn := by rw [fill_frame hFill]; exact ⟨rfl, rfl⟩
  obtain ⟨hParams, hSameObs⟩ := hKept
  obtain ⟨hSum, hEndParams⟩ := ticks_heardAndLeft ds t (hParams ▸ hCapacity) (hSameObs.trans hObs) hTicks
  have hEnd := drainsLeft_eq_zero_iff (s := u) (by rw [hEndParams, hParams]; exact hCapacity)
  rw [heardAndLeft, heardAndLeft, hQuiet, hStart] at hSum
  refine ⟨fun hDone => ?_, fun hNot => ?_⟩
  · rw [hEnd.mpr hDone] at hSum
    exact hSum
  · have hLeft := mt hEnd.mp hNot
    omega

end Sys2Proof.Machine
end

section
/-! PROOFS. External memory during a transfer, and how long a transfer lasts (20_memory.md, section 3). -/

namespace Sys2Proof.Machine

/-! ### Constancy -/

/-- Settles O58: a command and a tick never write memory, and the one input that does is turned away. -/
theorem memoryIsConstantDuringATransfer : Obligations.MemoryIsConstantDuringATransfer := by
  intro s hTransfer
  have hUnderWay : transferUnderWay s = true := (transferUnderWay_eq_true s).mpr hTransfer
  refine ⟨fun t h => memRead_congr ?_, fun a v rest hInputs => ?_⟩
  · obtain ⟨-, rfl⟩ | ⟨_, _, _, _, -, -, rfl⟩ | ⟨_, _, _, _, _, u, -, -, hExec, rfl⟩ | ⟨_, _, u, -, hTick, rfl⟩ |
      ⟨_, _, _, -, hIdle, -⟩ := step_next h
    · rfl
    · rfl
    · exact (exec_mem hExec :)
    · exact (tick_mem hTick :)
    · exact absurd (hIdle.symm.trans hUnderWay) Bool.false_ne_true
  · rw [step_of_hostStore hInputs]
    exact hostStore_of_transfer (s := { s with inputs := rest }) a v hUnderWay

/-! ### From start to end -/

theorem transferUnderWay_congr {s t : State} (hRemaining : t.remaining = s.remaining) (hEmpty : t.empty = s.empty) :
    transferUnderWay t = transferUnderWay s := by
  rw [transferUnderWay, transferUnderWay, hRemaining, hEmpty]

theorem transferUnderWay_of_full {s : State} (h : s.empty = false) : transferUnderWay s = true :=
  (transferUnderWay_eq_true s).mpr (.inr h)

/-- An advancement leaves the transfer where it was, or comes from a buffer that is not empty to one that is filled again or to the end
of the transfer. -/
theorem advance_transfer {L : BitVec 6} {s t : State} (h : advance L s = .ok t) :
    transferUnderWay t = transferUnderWay s ∨
    (s.empty = false ∧ (t.empty = false ∨ (t.remaining = 0 ∧ t.empty = true))) := by
  obtain ⟨-, rfl⟩ | ⟨-, -, rfl⟩ | ⟨hFull, -, hDrain⟩ := advance_ok h
  · exact .inl rfl
  · exact .inl (transferUnderWay_congr (by simp) (by simp))
  refine .inr ⟨hFull, ?_⟩
  by_cases hLast : (loadChannels L s).remaining = 0
  · rw [drain_last_frame hDrain hLast]
    exact .inr ⟨hLast, rfl⟩
  · obtain ⟨u, hFill, hNext⟩ := drain_refill hDrain hLast
    rw [hNext]
    exact .inl (empty_fill hFill :)

/-- A tick leaves the transfer where it was, or finds it under way and leaves it under way or finished. -/
theorem tick_transfer {d : Lanes Bool} {s t : State} (h : tick d s = .next t) :
    transferUnderWay t = transferUnderWay s ∨
    (transferUnderWay s = true ∧ (transferUnderWay t = true ∨ finished t = true)) := by
  obtain ⟨L, p, -, ⟨-, rfl⟩ | ⟨-, -, rfl⟩ | ⟨-, -, hTick⟩⟩ := tick_next h
  · exact .inl rfl
  · exact .inl rfl
  obtain ⟨-, rfl⟩ | ⟨-, hAdvance⟩ := fallingTick_ok hTick
  · exact .inl rfl
  have hScan : t.scanComplete = true := by rw [advance_frame hAdvance]; rfl
  obtain hSame | ⟨hFull, hEnd⟩ := advance_transfer hAdvance
  · exact .inl hSame
  · exact .inr ⟨transferUnderWay_of_full hFull,
      hEnd.imp transferUnderWay_of_full fun hDone => (finished_iff t).mpr ⟨hScan, hDone⟩⟩

/-- A command leaves the transfer where it was, but for CLEAR, which ends it, and LOAD_DATA, which may start one. -/
theorem exec_transfer {i : Instr} {s t : State} (h : exec i s = .next t) :
    transferUnderWay t = transferUnderWay s ∨ (i.opcode = .clear ∧ transferUnderWay t = false) ∨
    (i.opcode = .loadData ∧ transferUnderWay t = true) := by
  obtain ⟨-, -, -, -, -, -, hKept, -⟩ := exec_writers h
  obtain ⟨r, w, rfl⟩ | hEffect := exec_next h
  · exact .inl rfl
  cases i with
  | clear => obtain ⟨L, -, rfl⟩ := hEffect; exact .inr (.inl ⟨rfl, rfl⟩)
  | loadData src len =>
    obtain ⟨L, -, ⟨-, rfl⟩ | ⟨-, -, hFill⟩⟩ := hEffect
    · exact .inl rfl
    · exact .inr (.inr ⟨rfl, transferUnderWay_of_full (empty_fill hFill)⟩)
  | configure | beginScan | run | stop | loadWords | isComplete | getOutput | verify | setObserver =>
    obtain ⟨-, hRemaining, -, hEmpty⟩ := hKept ⟨nofun, nofun⟩
    exact .inl (transferUnderWay_congr hRemaining hEmpty)

/-- Settles O59, from what a fill, a tick and a command do to a transfer. -/
theorem transferLastsUntilCompletion : Obligations.TransferLastsUntilCompletion := by
  refine ⟨fun s t L src len hL hLen h => ?_, fun s t d h hUnderWay => ?_, fun s t i h hNotClear hUnderWay => ?_,
    fun s t d h hIdle => ?_, fun s t i h hNotLoad hIdle => ?_⟩
  · exact transferUnderWay_of_full (empty_fill (fill_of_exec_loadData hL hLen h).2)
  · obtain hSame | ⟨-, hEnd⟩ := tick_transfer h
    · exact .inl (hSame.trans hUnderWay)
    · exact hEnd
  · obtain hSame | ⟨hClear, -⟩ | ⟨-, hStarted⟩ := exec_transfer h
    · exact hSame.trans hUnderWay
    · exact absurd hClear hNotClear
    · exact hStarted
  · obtain hSame | ⟨hUnderWay, -⟩ := tick_transfer h
    · exact hSame.trans hIdle
    · exact absurd (hIdle.symm.trans hUnderWay) Bool.false_ne_true
  · obtain hSame | ⟨-, hEnded⟩ | ⟨hLoad, -⟩ := exec_transfer h
    · exact hSame.trans hIdle
    · exact hEnded
    · exact absurd hLoad hNotLoad

end Sys2Proof.Machine
end
